-- ==== Sys2Proof/Word.lean ====
section
/-! DEFINITION. Word.lean: bits, bit sequences and bytes (00_scope.md R10, R11). -/

namespace Sys2Proof

/-- A bit (R10): `true` is 1, `false` is 0. -/
abbrev Bit := Bool

/-- A bit sequence (R10); index 0 is the first bit of the sequence, in a frame the first bit transmitted. -/
abbrev Bits := List Bool

/-- A byte (R11): an 8-bit unsigned value. -/
abbrev Byte := BitVec 8

end Sys2Proof
end

