-- ==== Sys2Proof/Config.lean ====
section
/-! DEFINITION. Config.lean: the implementation parameters of 00_scope.md R8 that are fixed for a machine.
The two parameters a host can change (`PAD_EXT_WRITE`, `OPC_REGREAD`) are the `CFG` record of the state; here are
their reset values and bounds. `CHECK_CAPTURE_PARITY` is fixed to false: the response parser has no parity check. -/

namespace Sys2Proof.Config

/-- `SA_WIDTH` (R8): bits of the slave-address field of a frame. -/
def saWidth : Nat := 4

/-- The least legal `CFG.pad_ext_write` (R8, R25): the longest unpadded ExtWrite frame. -/
def padLeast : Nat := 162

/-- Reset value of `CFG.pad_ext_write` (R25, R241). -/
def padReset : Nat := 163

/-- Reset value of `CFG.opc_regread` (R25, R241), marked by the spec as from general knowledge. -/
def opcRegreadReset : BitVec 3 := 0b011#3

/-- The widths and capacities of the request and capture ports (R8, D17). -/
structure Ports where
  /-- `W_SA_IN`, bits. -/
  wSaIn : Nat
  /-- `W_ADDR_IN`, bits. -/
  wAddrIn : Nat
  /-- `W_BC_IN`, bits. -/
  wBcIn : Nat
  /-- `P_MAX`, bytes. -/
  pMax : Nat
  /-- `C_MAX`, bytes. -/
  cMax : Nat
  deriving DecidableEq, Repr

/-- The constraints R8 puts on the ports. -/
def Ports.legal (p : Ports) : Bool :=
  5 ≤ p.wSaIn && 17 ≤ p.wAddrIn && 5 ≤ p.wBcIn && 17 ≤ p.pMax && 16 ≤ p.cMax

/-- The ports of the request image of Decode.lean. DESIGN CHOICE (log 2): R8 leaves them open. The state holds
unbounded numbers and lists, as R8 allows, so no meaning depends on these values. -/
def ports : Ports := { wSaIn := 12, wAddrIn := 24, wBcIn := 8, pMax := 255, cMax := 255 }

/-- Bits the request image gives the timeout. DESIGN CHOICE (log 1, log 3). -/
def timeoutWidth : Nat := 16

end Sys2Proof.Config
end

