-- ==== Sys2Proof/Syntax.lean ====
section
/-! DEFINITION. Syntax.lean: the ten command kinds, the operand record of a request, and `Instr`, one constructor
for each row of spec/opcode_table.json (30_encoding.md R60). -/

namespace Sys2Proof

/-- The command kinds, in the order of R60. -/
inductive Kind where
  | regZeroWrite
  | regWrite
  | regRead
  | regReadHighRate
  | extWrite
  | extRead
  | extReadHighRate
  | extLongWrite
  | extLongRead
  | extLongReadHighRate
  deriving DecidableEq, Repr

/-- The caller's timeout (10_state.md R21, D24): opaque to the framer, passed on unchanged. DESIGN CHOICE (log 3):
it is carried as a number that no rule looks at. -/
structure Timeout where
  /-- What the caller gave. -/
  token : Nat
  deriving DecidableEq, Repr

/-- RegisterAccess, the parameter bundle of one transaction (00_scope.md R15), with the caller's timeout: the
operand fields of `REQ` (10_state.md R21). A kind may ignore some of them (30_encoding.md R79), but `REQ` is written
whole, so every request carries all of them. -/
structure RegisterAccess where
  /-- `REQ.sa`. -/
  sa : Nat
  /-- `REQ.reg_addr`. -/
  regAddr : Nat
  /-- `REQ.byte_count`, read for read kinds only. -/
  byteCount : Nat
  /-- `REQ.payload`, first byte first, read for write kinds only. -/
  payload : List Byte
  /-- `REQ.timeout`. -/
  timeout : Timeout
  deriving DecidableEq, Repr

/-- The request record as the host presents it and as `REQ` holds it (R21): a 4-bit kind code and the operands. -/
structure Request where
  /-- `REQ.kind`. -/
  kind : BitVec 4
  /-- The operand fields. -/
  access : RegisterAccess
  deriving DecidableEq, Repr

/-- The instructions: one constructor per command kind. -/
inductive Instr where
  /-- RegZeroWrite, 41_register.md R110. -/
  | regZeroWrite (a : RegisterAccess)
  /-- RegWrite, 41_register.md R111. -/
  | regWrite (a : RegisterAccess)
  /-- RegRead, 41_register.md R112. -/
  | regRead (a : RegisterAccess)
  /-- RegReadHighRate, 41_register.md R113. -/
  | regReadHighRate (a : RegisterAccess)
  /-- ExtWrite, 42_extended.md R130. -/
  | extWrite (a : RegisterAccess)
  /-- ExtRead, 42_extended.md R131. -/
  | extRead (a : RegisterAccess)
  /-- ExtReadHighRate, 42_extended.md R132. -/
  | extReadHighRate (a : RegisterAccess)
  /-- ExtLongWrite, 43_extended_long.md R150. -/
  | extLongWrite (a : RegisterAccess)
  /-- ExtLongRead, 43_extended_long.md R151. -/
  | extLongRead (a : RegisterAccess)
  /-- ExtLongReadHighRate, 43_extended_long.md R152. -/
  | extLongReadHighRate (a : RegisterAccess)
  deriving DecidableEq, Repr

/-- The kind of an instruction. -/
def Instr.kind : Instr → Kind
  | .regZeroWrite _ => .regZeroWrite
  | .regWrite _ => .regWrite
  | .regRead _ => .regRead
  | .regReadHighRate _ => .regReadHighRate
  | .extWrite _ => .extWrite
  | .extRead _ => .extRead
  | .extReadHighRate _ => .extReadHighRate
  | .extLongWrite _ => .extLongWrite
  | .extLongRead _ => .extLongRead
  | .extLongReadHighRate _ => .extLongReadHighRate

/-- The operands of an instruction. -/
def Instr.access : Instr → RegisterAccess
  | .regZeroWrite a => a
  | .regWrite a => a
  | .regRead a => a
  | .regReadHighRate a => a
  | .extWrite a => a
  | .extRead a => a
  | .extReadHighRate a => a
  | .extLongWrite a => a
  | .extLongRead a => a
  | .extLongReadHighRate a => a

/-- The instruction of a kind with given operands. -/
def Instr.make : Kind → RegisterAccess → Instr
  | .regZeroWrite, a => .regZeroWrite a
  | .regWrite, a => .regWrite a
  | .regRead, a => .regRead a
  | .regReadHighRate, a => .regReadHighRate a
  | .extWrite, a => .extWrite a
  | .extRead, a => .extRead a
  | .extReadHighRate, a => .extReadHighRate a
  | .extLongWrite, a => .extLongWrite a
  | .extLongRead, a => .extLongRead a
  | .extLongReadHighRate, a => .extLongReadHighRate a

end Sys2Proof
end

