-- ==== Sys2Proof/WellFormed.lean ====
section
/-! DEFINITION. WellFormed.lean: which instructions fit the request ports (00_scope.md R8, D17). An operand outside a
kind's legal range is no ill-formed instruction: the request is presented and rejected with ValidationError (R82). -/

namespace Sys2Proof

/-- The slave address fits `W_SA_IN` bits. -/
def RegisterAccess.saFits (a : RegisterAccess) : Bool := decide (a.sa < 2 ^ Config.ports.wSaIn)

/-- The register address fits `W_ADDR_IN` bits. -/
def RegisterAccess.addrFits (a : RegisterAccess) : Bool := decide (a.regAddr < 2 ^ Config.ports.wAddrIn)

/-- The byte count fits `W_BC_IN` bits. -/
def RegisterAccess.countFits (a : RegisterAccess) : Bool := decide (a.byteCount < 2 ^ Config.ports.wBcIn)

/-- The payload fits the buffer of `P_MAX` bytes. -/
def RegisterAccess.payloadFits (a : RegisterAccess) : Bool := decide (a.payload.length ≤ Config.ports.pMax)

/-- The timeout fits the request image. -/
def RegisterAccess.timeoutFits (a : RegisterAccess) : Bool := decide (a.timeout.token < 2 ^ Config.timeoutWidth)

/-- Every operand fits its port. -/
def RegisterAccess.wf (a : RegisterAccess) : Bool :=
  a.saFits && a.addrFits && a.countFits && a.payloadFits && a.timeoutFits

/-- An instruction is well formed when its operands fit the request ports. -/
def Instr.wf (i : Instr) : Bool := i.access.wf

end Sys2Proof
end

