-- ==== Sys2Proof/Decode.lean ====
section
/-! DEFINITION. Decode.lean: from a request to an instruction and back.

The spec gives a request two forms. (1) The request RECORD of 10_state.md R21: a 4-bit kind code and operand
fields; decoding it is reading the kind code by the table of 30_encoding.md R60 (`decodeRequest`). (2) The request as
BITS: the spec numbers only the kind, bits 3..0 (opcode_table.json, mask 15); where the other fields lie is a
DESIGN CHOICE (log 1): the request IMAGE, least significant bit first, in bytes with the first byte at bits 7..0:
kind 3..0, sa 15..4, reg_addr 39..16, byte_count 47..40, timeout 63..48, payload length 71..64, then the payload
bytes in order. No rule of the spec and no bit of a frame depends on it. -/

namespace Sys2Proof

/-- Why a request is no instruction. -/
inductive DecodeError where
  /-- The kind code is 10 to 15 (30_encoding.md R61). -/
  | unmappedKind (code : BitVec 4)
  /-- The bytes end before the request image does. -/
  | truncated
  deriving DecidableEq, Repr

/-- The kind a 4-bit code selects (30_encoding.md R60); codes 10 to 15 select none (R61). -/
def kindOfCode (c : BitVec 4) : Option Kind :=
  match c.toNat with
  | 0 => some .regZeroWrite
  | 1 => some .regWrite
  | 2 => some .regRead
  | 3 => some .regReadHighRate
  | 4 => some .extWrite
  | 5 => some .extRead
  | 6 => some .extReadHighRate
  | 7 => some .extLongWrite
  | 8 => some .extLongRead
  | 9 => some .extLongReadHighRate
  | _ => none

/-- A request record to an instruction: the kind check of 40_transaction.md R91, before any operand. -/
def decodeRequest (r : Request) : Except DecodeError Instr :=
  match kindOfCode r.kind with
  | some k => .ok (Instr.make k r.access)
  | none => .error (.unmappedKind r.kind)

/-- The number two bytes make, the first the less significant. -/
def pairLE (b0 b1 : Byte) : Nat := b0.toNat + 256 * b1.toNat

/-- The request record at the head of a list of bytes, with the bytes after it (the request image, log 1). -/
def requestOfBytes : List Byte → Option (Request × List Byte)
  | b0 :: b1 :: b2 :: b3 :: b4 :: b5 :: b6 :: b7 :: b8 :: rest =>
    if rest.length < b8.toNat then none
    else some
      ({ kind := BitVec.ofNat 4 (pairLE b0 b1 % 16),
         access :=
          { sa := pairLE b0 b1 / 16,
            regAddr := pairLE b2 b3 + 65536 * b4.toNat,
            byteCount := b5.toNat,
            timeout := ⟨pairLE b6 b7⟩,
            payload := rest.take b8.toNat } },
       rest.drop b8.toNat)
  | _ => none

/-- The instruction at the head of a list of bytes, with the bytes after it. -/
def decode (bs : List Byte) : Except DecodeError (Instr × List Byte) :=
  match requestOfBytes bs with
  | none => .error .truncated
  | some (r, rest) =>
    match decodeRequest r with
    | .ok i => .ok (i, rest)
    | .error e => .error e

/-- The 4-bit code of a kind (30_encoding.md R60). -/
def kindCode : Kind → BitVec 4
  | .regZeroWrite => 0b0000#4
  | .regWrite => 0b0001#4
  | .regRead => 0b0010#4
  | .regReadHighRate => 0b0011#4
  | .extWrite => 0b0100#4
  | .extRead => 0b0101#4
  | .extReadHighRate => 0b0110#4
  | .extLongWrite => 0b0111#4
  | .extLongRead => 0b1000#4
  | .extLongReadHighRate => 0b1001#4

/-- The request record of an instruction: what the host presents for it. -/
def encodeRequest (i : Instr) : Request := { kind := kindCode i.kind, access := i.access }

/-- Byte `k` of a number, byte 0 the least significant. -/
def byteOf (k v : Nat) : Byte := BitVec.ofNat 8 (v / 256 ^ k)

/-- The image of a request record (log 1). -/
def bytesOfRequest (r : Request) : List Byte :=
  let head := r.kind.toNat + 16 * r.access.sa
  byteOf 0 head :: byteOf 1 head ::
  byteOf 0 r.access.regAddr :: byteOf 1 r.access.regAddr :: byteOf 2 r.access.regAddr ::
  byteOf 0 r.access.byteCount ::
  byteOf 0 r.access.timeout.token :: byteOf 1 r.access.timeout.token ::
  byteOf 0 r.access.payload.length :: r.access.payload

/-- The bytes of a well-formed instruction. -/
def encode (i : Instr) : List Byte := bytesOfRequest (encodeRequest i)

/-- How many bytes the longest request image has: the 9 of the record's head and `P_MAX` of payload. -/
def longestImage : Nat := 9 + Config.ports.pMax

/-- The `n` bytes of a number, the least significant first. -/
def bytesLE : Nat → Nat → List Byte
  | 0, _ => []
  | n + 1, v => BitVec.ofNat 8 v :: bytesLE n (v / 256)

/-- The bytes of the instruction whose low `nbits` bits are those of `w` and whose other bits are 0. -/
def wordBytes (nbits w : Nat) : List Byte := bytesLE longestImage (w % 2 ^ nbits)

/-- What the decoder reads from an instruction whose bits are `w`. -/
def decodeTableWord (nbits w : Nat) : Option Instr :=
  match decode (wordBytes nbits w) with
  | .ok (i, _) => some i
  | .error _ => none

/-- The request record whose image has the bits `w`: what the host's withFetchWord presents. The second arm is never
taken, since `wordBytes` is as long as the longest image. -/
def requestOfWord (nbits w : Nat) : Request :=
  match requestOfBytes (wordBytes nbits w) with
  | some (r, _) => r
  | none => { kind := 0, access := { sa := 0, regAddr := 0, byteCount := 0, payload := [], timeout := ⟨0⟩ } }

end Sys2Proof
end

