-- ==== Sys2Proof/Machine/State.lean ====
section
/-! DEFINITION. Machine/State.lean: the state of the framer (10_state.md) and of the two agents around it
(00_scope.md R7), as plain data, with the reasons a step can stop. -/

namespace Sys2Proof.Machine

open Sys2Proof

/-- The phase register `PHASE` (10_state.md R23). -/
inductive Phase where
  | idle
  | waitTx
  | waitCap
  | faulted
  deriving DecidableEq, Repr

/-- `STATUS.code` (10_state.md R24); its numbers are in `statusCodeBits`. -/
inductive StatusCode where
  | none
  | ok
  | validation
  | unsupportedCommand
  | captureShortfall
  | collaborator
  | range
  | buildMisuse
  deriving DecidableEq, Repr

/-- `STATUS.field` (10_state.md R24); its numbers are in `statusFieldBits`. Value 7 is reserved and never written. -/
inductive StatusField where
  | none
  | sa
  | regAddr
  | byteCount
  | payload
  | kind
  | capture
  deriving DecidableEq, Repr

/-- `STATUS.hi` (10_state.md R24): a natural number or `UNBOUNDED`. -/
inductive Bound where
  | upTo (n : Nat)
  | unbounded
  deriving DecidableEq, Repr

/-- The status record `STATUS` (10_state.md R24). -/
structure Status where
  code : StatusCode
  kind : BitVec 4
  field : StatusField
  lo : Nat
  hi : Bound
  observed : Nat
  deriving DecidableEq, Repr

/-- The configuration record `CFG` (10_state.md R25). -/
structure Cfg where
  /-- `CFG.pad_ext_write`; `none` is the value `NONE`. -/
  padExtWrite : Option Nat
  /-- `CFG.opc_regread`, bit 2 transmitted first (R43). -/
  opcRegread : BitVec 3
  deriving DecidableEq, Repr

/-- A collaborator operation the framer called (60_exceptions.md R231, R232), with everything handed over. -/
inductive Call where
  | transmit (frame : Bits) (kind : BitVec 4) (timeout : Timeout)
  | transmitAndCapture (frame : Bits) (kind : BitVec 4) (n : Nat) (timeout : Timeout)
  deriving DecidableEq, Repr

/-- A collaborator's answer (60_exceptions.md R231, R232). `bytes c` carries the capture input `CAP`
(10_state.md R28). -/
inductive Answer where
  | done
  | bytes (c : List Byte)
  | fail
  deriving DecidableEq, Repr

/-- A batch in progress (45_batch.md R190). -/
structure BatchRun where
  writes : List Request
  reads : List Request
  /-- Position in `writes`. -/
  i : Nat
  /-- Position in `reads`. -/
  j : Nat
  /-- Results gathered so far. -/
  results : List (List Byte)
  /-- Whether the request at the position has been presented and its outcome not yet looked at. -/
  performing : Bool
  deriving DecidableEq, Repr

/-- The host's batch sequencer (45_batch.md R190, R192): no batch, one in progress, or the outcome of the last. -/
inductive Batch where
  | idle
  | running (b : BatchRun)
  | aborted (st : Status)
  | completed (results : List (List Byte))
  deriving DecidableEq, Repr

/-- A move of the host or of the collaborator (60_exceptions.md R233). -/
inductive Event where
  /-- The host presents a request (40_transaction.md R90). -/
  | present (r : Request)
  /-- The host writes `CFG.pad_ext_write` (10_state.md R25). -/
  | writePad (v : Option Nat)
  /-- The host writes `CFG.opc_regread` (10_state.md R25). -/
  | writeOpc (v : BitVec 3)
  /-- The host resets the framer (70_reset_and_hazards.md R240). -/
  | reset
  /-- The host starts a batch (45_batch.md R190). -/
  | startBatch (writes reads : List Request)
  /-- The host's batch sequencer takes its next move: present a request, look at an outcome, or finish. -/
  | batchMove
  /-- The collaborator answers a call (60_exceptions.md R231, R232). -/
  | answer (a : Answer)
  deriving DecidableEq, Repr

/-- The machine. INVENTORY.md, State, says for each field which rule names it and what it is at reset. -/
structure State where
  /-- `PHASE` (R23). -/
  phase : Phase
  /-- `REQ` (R21). -/
  req : Request
  /-- Whether `REQ` was written since reset (the model's own; log 4). -/
  reqValid : Bool
  /-- `STATUS` (R24). -/
  status : Status
  /-- `CFG` (R25). -/
  cfg : Cfg
  /-- `FRAME` (R26). -/
  frame : Bits
  /-- `RDATA` (R27). -/
  rdata : List Byte
  /-- Every collaborator call made, oldest first (R230; log 13). -/
  calls : List Call
  /-- Calls abandoned by a reset and not yet answered (R240; log 8). -/
  abandoned : Nat
  /-- The batch sequencer (R190). -/
  batch : Batch
  /-- The host's and the collaborator's coming moves, in order (the model's own; log 5). -/
  inputs : List Event
  deriving DecidableEq, Repr

/-- Why the machine stops with a fault. -/
inductive Fault where
  /-- `REQ` was read before a request was accepted since reset (10_state.md R32, 93 I14: a model fault). Raised by
  `withReq` outside a transaction; no step has it, from any state, since an answer is taken in `WAIT_TX` and `WAIT_CAP`
  only. Safe. -/
  | reqUnwritten
  /-- A step from the state the defensive RangeError leaves (60_exceptions.md R215: treated as a fault). Safe. -/
  | rangeError
  /-- A step from the state the defensive BuildMisuse leaves (60_exceptions.md R217: treated as a fault). Safe. -/
  | buildMisuse
  deriving DecidableEq, Repr

/-- Why there is no step. -/
inductive Refusal where
  /-- An instruction without a meaning. No arm of exec raises it. Safe. -/
  | notModelled (mnemonic : String)
  /-- No coming move has a step in this phase (10_state.md R23, D32): the host waits, or the collaborator has not
  answered. Raised by step. Safe. -/
  | noStep
  /-- A request executed outside `IDLE` (10_state.md R23, 70_reset_and_hazards.md R244): the host waits. Raised by every
  meaning; step never gets there. Safe. -/
  | notIdle
  /-- A write of `CFG.pad_ext_write` below 162 (10_state.md R25: the model has no step for it). Safe. -/
  | illegalPadLength
  /-- A write of `010` to `CFG.opc_regread` (10_state.md R25: the model has no step for it). Safe. -/
  | illegalReadOpcode
  /-- A batch with a mapped kind in the wrong list (45_batch.md R194: refused as a whole). Safe. -/
  | malformedBatch
  /-- A capture in `WAIT_TX`, or a transmit answer in `WAIT_CAP` (10_state.md R23, 60_exceptions.md R233: no move in the
  model). Safe. -/
  | answerMismatch
  /-- decode_capture for a kind that is no read kind (44_capture.md R176). No state that a run reaches has it. Safe. -/
  | captureOfNonRead
  deriving DecidableEq, Repr

/-- What a step or an instruction answers. -/
abbrev Result := Host.Outcome State Fault Refusal

/-- `STATUS` after reset (10_state.md R32, 70_reset_and_hazards.md R240). -/
def Status.reset : Status :=
  { code := .none, kind := 0, field := .none, lo := 0, hi := .upTo 0, observed := 0 }

/-- `CFG` after reset (10_state.md R32, 70_reset_and_hazards.md R241). -/
def Cfg.reset : Cfg := { padExtWrite := some Config.padReset, opcRegread := Config.opcRegreadReset }

/-- `REQ` after reset. DESIGN CHOICE (log 4): R32 leaves it unspecified. -/
def Request.reset : Request :=
  { kind := 0, access := { sa := 0, regAddr := 0, byteCount := 0, payload := [], timeout := ⟨0⟩ } }

/-- The machine right after reset (10_state.md R32), with nothing presented. -/
def State.reset : State :=
  { phase := .idle, req := Request.reset, reqValid := false, status := Status.reset, cfg := Cfg.reset,
    frame := [], rdata := [], calls := [], abandoned := 0, batch := .idle, inputs := [] }

end Sys2Proof.Machine
end

