-- ==== Sys2Proof/Machine/Descriptor.lean ====
section
/-! DEFINITION. Machine/Descriptor.lean: the command descriptor table `DESC` (30_encoding.md R62, 10_state.md R29), and
the legal values of `CFG` (10_state.md R25). Constants only. -/

namespace Sys2Proof.Machine

open Sys2Proof

/-- Where a kind's opcode goes (R62). -/
inductive Placement where
  | none
  | transmitted
  | parityOnly
  deriving DecidableEq, Repr

/-- A kind's opcode value (R62): none, a constant of bits, or `OPC_REGREAD`, which `CFG` holds. -/
inductive Opcode where
  | none
  | bits (b : Bits)
  | regread
  deriving DecidableEq, Repr

/-- A row of the descriptor table (R62). -/
structure Descriptor where
  isWrite : Bool
  expectsResponse : Bool
  highRate : Bool
  addressWidth : Nat
  isLongAddress : Bool
  byteCountWidth : Nat
  bcLo : Nat
  bcHi : Nat
  opcode : Opcode
  opcodeWidth : Nat
  placement : Placement
  deriving DecidableEq, Repr

/-- The descriptor table of R62. -/
def desc : Kind → Descriptor
  | .regZeroWrite => ⟨true, false, false, 0, false, 0, 1, 1, .none, 0, .none⟩
  | .regWrite => ⟨true, false, false, 5, false, 0, 1, 1, .bits [false, true, false], 3, .transmitted⟩
  | .regRead => ⟨false, true, false, 5, false, 0, 1, 1, .regread, 3, .transmitted⟩
  | .regReadHighRate => ⟨false, true, true, 5, false, 0, 1, 1, .regread, 3, .transmitted⟩
  | .extWrite => ⟨true, false, false, 8, false, 4, 1, 16, .bits [false], 1, .parityOnly⟩
  | .extRead => ⟨false, true, false, 8, false, 4, 1, 16, .bits [true], 1, .parityOnly⟩
  | .extReadHighRate => ⟨false, true, true, 8, false, 4, 1, 16, .bits [true], 1, .parityOnly⟩
  | .extLongWrite => ⟨true, false, false, 16, true, 3, 1, 8, .bits [false], 1, .parityOnly⟩
  | .extLongRead => ⟨false, true, false, 16, true, 3, 1, 8, .bits [true], 1, .parityOnly⟩
  | .extLongReadHighRate => ⟨false, true, true, 16, true, 3, 1, 8, .bits [true], 1, .parityOnly⟩

/-- A legal value of `CFG.pad_ext_write` (R25): `NONE` or at least 162. -/
def padLegal : Option Nat → Bool
  | none => true
  | some l => decide (Config.padLeast ≤ l)

/-- A legal value of `CFG.opc_regread` (R25): anything but `010`. -/
def opcLegal (v : BitVec 3) : Bool := decide (v ≠ 0b010#3)

/-- A legal configuration record (R25). -/
def cfgLegal (c : Cfg) : Bool := padLegal c.padExtWrite && opcLegal c.opcRegread

/-- F_MAX, the longest frame a configuration allows (R26). -/
def fMax (c : Cfg) : Nat :=
  match c.padExtWrite with
  | some l => max Config.padLeast l
  | none => Config.padLeast

end Sys2Proof.Machine
end

