-- ==== Sys2Proof/Machine/Flags.lean ====
section
/-! DEFINITION. Machine/Flags.lean: the status record, the framer's only flags (10_state.md R24): the errors of
60_exceptions.md R210 with what each writes, the numbers of `STATUS.code` and `STATUS.field`, and the text of R211. -/

namespace Sys2Proof.Machine

open Sys2Proof

/-- The errors of R210, each with what it needs for its detail record. -/
inductive FramerError where
  /-- ValidationError (R212). -/
  | validation (field : StatusField) (lo hi observed : Nat)
  /-- UnsupportedCommandError (R213). -/
  | unsupportedCommand (code : BitVec 4)
  /-- CaptureShortfallError (R214): `n` bytes wanted, `len` captured. -/
  | captureShortfall (n len : Nat)
  /-- CollaboratorError (R216). -/
  | collaborator
  /-- RangeError (R215, 30_encoding.md R63), defensive. -/
  | range (field : StatusField) (hi observed : Nat)
  /-- BuildMisuse (R217), defensive. -/
  | buildMisuse
  deriving DecidableEq, Repr

/-- What an error writes to `STATUS` (R210, R211), for the kind code of the failing transaction. -/
def errorStatus (k : BitVec 4) : FramerError → Status
  | .validation f lo hi obs => ⟨.validation, k, f, lo, .upTo hi, obs⟩
  | .unsupportedCommand c => ⟨.unsupportedCommand, k, .kind, 0, .upTo 9, c.toNat⟩
  | .captureShortfall n len => ⟨.captureShortfall, k, .capture, n, .unbounded, len⟩
  | .collaborator => ⟨.collaborator, k, .none, 0, .upTo 0, 0⟩
  | .range f hi obs => ⟨.range, k, f, 0, .upTo hi, obs⟩
  | .buildMisuse => ⟨.buildMisuse, k, .none, 0, .upTo 0, 0⟩

/-- The phase an error leaves (R210). -/
def errorPhase : FramerError → Phase
  | .validation .. => .idle
  | .unsupportedCommand _ => .faulted
  | .captureShortfall .. => .idle
  | .collaborator => .idle
  | .range .. => .faulted
  | .buildMisuse => .faulted

/-- `STATUS` at the end of a transaction without error (40_transaction.md R101, 44_capture.md R170). -/
def okStatus (k : BitVec 4) : Status := ⟨.ok, k, .none, 0, .upTo 0, 0⟩

/-- The numbers of `STATUS.code` (R24). -/
def statusCodeBits : StatusCode → BitVec 3
  | .none => 0
  | .ok => 1
  | .validation => 2
  | .unsupportedCommand => 3
  | .captureShortfall => 4
  | .collaborator => 5
  | .range => 6
  | .buildMisuse => 7

/-- The numbers of `STATUS.field` (R24). -/
def statusFieldBits : StatusField → BitVec 3
  | .none => 0
  | .sa => 1
  | .regAddr => 2
  | .byteCount => 3
  | .payload => 4
  | .kind => 5
  | .capture => 6

/-- A hexadecimal digit, letters in capitals as D00 writes its bounds. -/
def hexDigit (n : Nat) : Char :=
  if n < 10 then Char.ofNat (48 + n) else Char.ofNat (55 + n)

/-- The hexadecimal digits of `v` in front of `acc`; `fuel` bounds how many. -/
def hexDigits : Nat → Nat → List Char → List Char
  | 0, _, acc => acc
  | fuel + 1, v, acc =>
    if v < 16 then hexDigit v :: acc else hexDigits fuel (v / 16) (hexDigit (v % 16) :: acc)

/-- A number in hexadecimal with a `0x` prefix (R211). -/
def renderHex (v : Nat) : List Char := '0' :: 'x' :: hexDigits (v + 1) v []

/-- `STATUS.hi` as text. -/
def renderBound : Bound → List Char
  | .upTo n => renderHex n
  | .unbounded => "UNBOUNDED".toList

/-- The field names of R24. -/
def fieldName : StatusField → List Char
  | .none => "NONE".toList
  | .sa => "SA".toList
  | .regAddr => "REG_ADDR".toList
  | .byteCount => "BYTE_COUNT".toList
  | .payload => "PAYLOAD".toList
  | .kind => "KIND".toList
  | .capture => "CAPTURE".toList

/-- The error names of R210; for `NONE` and `OK`, which are no errors, the code's name. -/
def codeName : StatusCode → List Char
  | .none => "NONE".toList
  | .ok => "OK".toList
  | .validation => "ValidationError".toList
  | .unsupportedCommand => "UnsupportedCommandError".toList
  | .captureShortfall => "CaptureShortfallError".toList
  | .collaborator => "CollaboratorError".toList
  | .range => "RangeError".toList
  | .buildMisuse => "BuildMisuse".toList

/-- An error as text, in the form of R211's example. R211 shows the form for ValidationError only; that every error
with a field uses it, and one without a field is its bare name, is a DESIGN CHOICE (log 17). -/
def renderStatus (st : Status) : List Char :=
  match st.field with
  | .none => codeName st.code
  | f =>
    codeName st.code ++ ": ".toList ++ fieldName f ++ " = ".toList ++ renderHex st.observed ++ " outside [".toList ++
      renderHex st.lo ++ ", ".toList ++ renderBound st.hi ++ "]".toList

end Sys2Proof.Machine
end

