-- ==== Sys2Proof/Machine/Primitives.lean ====
section
/-! DEFINITION. Machine/Primitives.lean: the bit and parity primitives of 30_encoding.md R63 to R65. -/

namespace Sys2Proof.Machine

open Sys2Proof

/-- The low `w` bits of `v`, most significant first (R43, R63). -/
def msbFirst : Nat → Nat → Bits
  | 0, _ => []
  | w + 1, v => v.testBit w :: msbFirst w v

/-- `to_bits(v, w)` (R63) for the operand `field`: it never truncates. -/
def toBits (field : StatusField) (v w : Nat) : Except FramerError Bits :=
  if 2 ^ w ≤ v then .error (.range field (2 ^ w - 1) v) else .ok (msbFirst w v)

/-- How many ones a bit sequence has. -/
def popcount (bs : Bits) : Nat := bs.count true

/-- `odd_parity(bs)` (R64): the bit that makes the number of ones, itself counted, odd. -/
def oddParity (bs : Bits) : Bit := decide (popcount bs % 2 = 0)

/-- The parity bit of a group, as a one-bit sequence. -/
def parityBit (group : Bits) : Bits := [oddParity group]

/-- `byte9(b)` (R65): a byte and its parity bit. It cannot fail, since a byte has 8 bits by type (R99). -/
def byte9 (b : Byte) : Bits := msbFirst 8 b.toNat ++ parityBit (msbFirst 8 b.toNat)

/-- `byte9` of an address byte given as a number, which `to_bits` checks (R63). -/
def addrByte9 (v : Nat) : Except FramerError Bits :=
  (toBits .regAddr v 8).map fun bs => bs ++ parityBit bs

/-- A data frame (R66): each payload byte with its parity bit, first byte first (R45). -/
def dataFrame (p : List Byte) : Bits := p.flatMap byte9

/-- `zeros(n)` (00_scope.md R10). -/
def zeros (n : Nat) : Bits := List.replicate n false

end Sys2Proof.Machine
end

