-- ==== Sys2Proof/Machine/Operands.lean ====
section
/-! DEFINITION. Machine/Operands.lean: the operand forms of a request: the byte count (40_transaction.md R92) and the
parameter validator (R93 to R97). -/

namespace Sys2Proof.Machine

open Sys2Proof

/-- The byte count of a transaction (R92): a write's payload length, a read's explicit count. -/
def byteCountOf (k : Kind) (a : RegisterAccess) : Nat :=
  if (desc k).isWrite then a.payload.length else a.byteCount

/-- The first payload byte as a number, 0 if there is none. Only read after the byte count was checked to be 1. -/
def firstPayload (a : RegisterAccess) : Nat :=
  match a.payload with
  | [] => 0
  | d :: _ => d.toNat

/-- R94: the slave address is at most 0xF. -/
def checkSa (sa : Nat) : Except FramerError Unit :=
  if 0xF < sa then .error (.validation .sa 0 0xF sa) else .ok ()

/-- The greatest register address of a kind (R95). -/
def addrMax (k : Kind) : Nat := 2 ^ (desc k).addressWidth - 1

/-- R95: the register address fits its width; RegZeroWrite's is not checked. -/
def checkRegAddr (k : Kind) (addr : Nat) : Except FramerError Unit :=
  match k with
  | .regZeroWrite => .ok ()
  | k => if addrMax k < addr then .error (.validation .regAddr 0 (addrMax k) addr) else .ok ()

/-- R96: the byte count is in the kind's range. -/
def checkByteCount (k : Kind) (bc : Nat) : Except FramerError Unit :=
  if bc < (desc k).bcLo ∨ (desc k).bcHi < bc then
    .error (.validation .byteCount (desc k).bcLo (desc k).bcHi bc)
  else .ok ()

/-- R97: RegZeroWrite sends 7 bits, so its payload byte is at most 0x7F. -/
def checkReg0Payload (k : Kind) (a : RegisterAccess) : Except FramerError Unit :=
  match k with
  | .regZeroWrite =>
    if 0x7F < firstPayload a then .error (.validation .payload 0 0x7F (firstPayload a)) else .ok ()
  | _ => .ok ()

/-- The validator (R93): the checks in order, the first that fails reported. -/
def validate (k : Kind) (a : RegisterAccess) : Except FramerError Unit :=
  match checkSa a.sa with
  | .error e => .error e
  | .ok _ =>
    match checkRegAddr k a.regAddr with
    | .error e => .error e
    | .ok _ =>
      match checkByteCount k (byteCountOf k a) with
      | .error e => .error e
      | .ok _ => checkReg0Payload k a

end Sys2Proof.Machine
end

