-- ==== Sys2Proof/Machine/Formats.lean ====
section
/-! DEFINITION. Machine/Formats.lean: the seven frame formats of 30_encoding.md R67 to R73, from the primitives. Each
field goes through `toBits`, which raises RangeError rather than truncate (R63); after validation none does (R215). -/

namespace Sys2Proof.Machine

open Sys2Proof

/-- Bits of the register-read opcode, most significant first (R43, R69). -/
def opcodeBits (v : BitVec 3) : Bits := msbFirst 3 v.toNat

/-- The 3-bit wire opcode of RegWrite, `OPC_REGWRITE` (R68, R78). -/
def opcRegWrite : Bits := [false, true, false]

/-- Format F-R0 (R67, 41_register.md R110): slave address and 7 data bits under one parity bit. -/
def formatR0 (sa d : Nat) : Except FramerError Bits :=
  match toBits .sa sa Config.saWidth, toBits .payload d 7 with
  | .ok s, .ok p => .ok (s ++ p ++ parityBit (s ++ p))
  | .error e, _ => .error e
  | _, .error e => .error e

/-- The command frame of the register kinds (R68, R69): slave address, opcode, address and their parity bit. -/
def registerCommand (sa : Nat) (opcode : Bits) (addr : Nat) : Except FramerError Bits :=
  match toBits .sa sa Config.saWidth, toBits .regAddr addr 5 with
  | .ok s, .ok a => .ok (s ++ opcode ++ a ++ parityBit (s ++ opcode ++ a))
  | .error e, _ => .error e
  | _, .error e => .error e

/-- Format F-RW (R68, R111): the command frame and the data byte. -/
def formatRW (sa addr : Nat) (payload : List Byte) : Except FramerError Bits :=
  (registerCommand sa opcRegWrite addr).map (· ++ dataFrame (payload.take 1))

/-- Format F-RR (R69, R112): the command frame alone, with the opcode of `CFG.opc_regread`. -/
def formatRR (sa addr : Nat) (opc : BitVec 3) : Except FramerError Bits :=
  registerCommand sa (opcodeBits opc) addr

/-- The command frame of the extended kinds (R70 to R73, R75): slave address, byte count less one in `w` bits, and a
parity bit over the untransmitted sub-opcode bit and the byte-count bits only. -/
def extendedCommand (sub : Bit) (w sa bc : Nat) : Except FramerError Bits :=
  match toBits .sa sa Config.saWidth, toBits .byteCount (bc - 1) w with
  | .ok s, .ok b => .ok (s ++ b ++ parityBit (sub :: b))
  | .error e, _ => .error e
  | _, .error e => .error e

/-- The two address bytes of the extended-long kinds, high byte first (20_memory.md R44, R72). -/
def longAddress (addr : Nat) : Except FramerError Bits :=
  match addrByte9 (addr / 256), addrByte9 (addr % 256) with
  | .ok hi, .ok lo => .ok (hi ++ lo)
  | .error e, _ => .error e
  | _, .error e => .error e

/-- A command frame followed by an address frame. -/
def withAddress (command address : Except FramerError Bits) : Except FramerError Bits :=
  match command, address with
  | .ok c, .ok a => .ok (c ++ a)
  | .error e, _ => .error e
  | _, .error e => .error e

/-- ExtWrite's padding (R76): zeros to the configured length, or none. -/
def padTo (pad : Option Nat) (f : Bits) : Bits :=
  match pad with
  | some l => f ++ zeros (l - f.length)
  | none => f

/-- Format F-EW (R70, R130). -/
def formatEW (sa addr bc : Nat) (payload : List Byte) (pad : Option Nat) : Except FramerError Bits :=
  (withAddress (extendedCommand false 4 sa bc) (addrByte9 addr)).map fun f => padTo pad (f ++ dataFrame payload)

/-- Format F-ER (R71, R131). -/
def formatER (sa addr bc : Nat) : Except FramerError Bits :=
  withAddress (extendedCommand true 4 sa bc) (addrByte9 addr)

/-- Format F-LW (R72, R150): never padded. -/
def formatLW (sa addr bc : Nat) (payload : List Byte) : Except FramerError Bits :=
  (withAddress (extendedCommand false 3 sa bc) (longAddress addr)).map (· ++ dataFrame payload)

/-- Format F-LR (R73, R151). -/
def formatLR (sa addr bc : Nat) : Except FramerError Bits :=
  withAddress (extendedCommand true 3 sa bc) (longAddress addr)

end Sys2Proof.Machine
end

