-- ==== Sys2Proof/Machine/Ops.lean ====
section
/-! DEFINITION. Machine/Ops.lean: the operations every instruction shares: latching `REQ`, taking an error, handing a
frame to the collaborator, accepting a request (40_transaction.md R90), ending a transaction (R101, R102, 44_capture.md),
configuration writes and reset. -/

namespace Sys2Proof.Machine

open Sys2Proof

/-! Updates of the state, one for each thing a rule writes. -/

/-- `REQ <- req` (R90): the whole record at once (10_state.md R21). -/
def State.latch (s : State) (r : Request) : State := { s with req := r, reqValid := true }

/-- `FRAME <- f` (R90, 10_state.md R26). -/
def State.loadFrame (s : State) (f : Bits) : State := { s with frame := f }

/-- A collaborator call, with the phase that waits for its answer (R90, 60_exceptions.md R230). -/
def State.callOut (s : State) (c : Call) (p : Phase) : State := { s with phase := p, calls := s.calls ++ [c] }

/-- `RDATA <- data` (44_capture.md R174). -/
def State.deliver (s : State) (data : List Byte) : State := { s with rdata := data }

/-- The end of a transaction without error (R101, R170): `STATUS` says `OK`, the phase is `IDLE`. -/
def State.finishOk (s : State) (k : BitVec 4) : State := { s with status := okStatus k, phase := .idle }

/-- TAKING AN ERROR (60_exceptions.md R219), for the kind code of the failing transaction: `STATUS` gets the error's
code, kind and detail (R210, R211), `PHASE` goes where R210 says, nothing else is written. There is no operation that
returns from an error (R220): after one that leaves `IDLE` the next request starts afresh, and `FAULTED` is left by
`hardReset` alone. -/
def State.takeError (s : State) (k : BitVec 4) (e : FramerError) : State :=
  { s with status := errorStatus k e, phase := errorPhase e }

/-- Whether a collaborator call is outstanding (10_state.md R23). -/
def Phase.waiting : Phase → Bool
  | .waitTx => true
  | .waitCap => true
  | _ => false

/-- RESET (70_reset_and_hazards.md R240, 10_state.md R32), in any phase: every piece of the framer's state goes to its
reset value. An outstanding call is abandoned. The host's batch, the moves to come and the record of the calls made are
not the framer's and stay. -/
def State.hardReset (s : State) : State :=
  { State.reset with
    calls := s.calls
    abandoned := if s.phase.waiting then s.abandoned + 1 else s.abandoned
    batch := s.batch
    inputs := s.inputs }

/-! Accepting a request. -/

/-- `build_frame` (R100) guarded as 60_exceptions.md R217 says: BuildMisuse when it is reached without a successful
`validate`. -/
def buildChecked (validated : Bool) (frame : Except FramerError Bits) : Except FramerError Bits :=
  if validated then frame else .error .buildMisuse

/-- `Transmit(frame, kind, timeout)` (60_exceptions.md R231). -/
def transmit (k : Kind) (a : RegisterAccess) (f : Bits) (s : State) : State :=
  s.callOut (.transmit f (kindCode k) a.timeout) .waitTx

/-- `TransmitAndCapture(frame, kind, n, timeout)` (60_exceptions.md R232). -/
def transmitAndCapture (k : Kind) (a : RegisterAccess) (f : Bits) (s : State) : State :=
  s.callOut (.transmitAndCapture f (kindCode k) (byteCountOf k a) a.timeout) .waitCap

/-- The hand-off of a built frame (R90): one call, chosen by the kind's direction. -/
def handOff (k : Kind) (a : RegisterAccess) (f : Bits) (s : State) : State :=
  if (desc k).isWrite then transmit k a f s else transmitAndCapture k a f s

/-- Accepting a request of a mapped kind (R90), given the frame the kind's rule builds: only in `IDLE`; `REQ` is
written, then validation, the build and the hand-off, to the end or the first error. -/
def accept (k : Kind) (a : RegisterAccess) (frame : Except FramerError Bits) (s : State) : Result :=
  match s.phase with
  | .idle =>
    let s1 := s.latch { kind := kindCode k, access := a }
    match validate k a with
    | .error e => .next (s1.takeError (kindCode k) e)
    | .ok _ =>
      match buildChecked true frame with
      | .error e => .next (s1.takeError (kindCode k) e)
      | .ok f => .next (handOff k a f (s1.loadFrame f))
  | _ => .refused .notIdle

/-- Accepting a request whose kind code is 10 to 15 (R90, R91, 60_exceptions.md R213): `REQ` is written, then
UnsupportedCommandError before any operand is looked at. -/
def acceptUnmapped (r : Request) (s : State) : Result :=
  match s.phase with
  | .idle => .next ((s.latch r).takeError r.kind (.unsupportedCommand r.kind))
  | _ => .refused .notIdle

/-! Ending a transaction. -/

/-- Whether a request was accepted since reset: `REQ` was written, or a transaction is in progress, since `WAIT_TX` and
`WAIT_CAP` are entered by accepting a request alone (10_state.md R23). DEDUCED (log 4). -/
def State.requestAccepted (s : State) : Bool := s.reqValid || s.phase.waiting

/-- Reading `REQ`. Before a request is accepted this is a fault: "a read of `REQ` before a request is accepted is a model
fault" (10_state.md R32). The meanings below read it for an answer in `WAIT_TX` or `WAIT_CAP`, where a request was
accepted, so that no step has this fault. -/
def withReq (s : State) (f : Request → Result) : Result :=
  if s.requestAccepted then f s.req else .fault .reqUnwritten

/-- `decode_capture(kind, CAP, n)` (44_capture.md R170): the first `n` captured bytes unchanged, without any parity
check (R171); CaptureShortfallError when there are fewer (R172); further ones are dropped (R173). -/
def decodeCapture (cap : List Byte) (n : Nat) : Except FramerError (List Byte) :=
  if cap.length < n then .error (.captureShortfall n cap.length) else .ok (cap.take n)

/-- The read kind a request names, if it names one: the domain of `decode_capture` (44_capture.md R176). -/
def readKind (r : Request) : Option Kind :=
  match kindOfCode r.kind with
  | some k => if (desc k).isWrite then none else some k
  | none => none

/-- A read's capture arrives (R102, 44_capture.md R170, R174). -/
def endRead (cap : List Byte) (s : State) : Result :=
  withReq s fun r =>
    match readKind r with
    | none => .refused .captureOfNonRead
    | some k =>
      match decodeCapture cap (byteCountOf k r.access) with
      | .ok data => .next ((s.deliver data).finishOk r.kind)
      | .error e => .next (s.takeError r.kind e)

/-- A write's transmission is done (R101). -/
def endWrite (s : State) : Result := withReq s fun r => .next (s.finishOk r.kind)

/-- The collaborator reports failure (60_exceptions.md R216). -/
def endFailed (s : State) : Result := withReq s fun r => .next (s.takeError r.kind .collaborator)

/-- A collaborator's answer (10_state.md R23). In `IDLE` it can only be the late answer to a call that a reset
abandoned, and is discarded (70_reset_and_hazards.md R240, log 8); in `FAULTED` no answer has a step
(60_exceptions.md R213). -/
def takeAnswer (a : Answer) (s : State) : Result :=
  match s.phase, a with
  | .waitTx, .done => endWrite s
  | .waitTx, .fail => endFailed s
  | .waitTx, .bytes _ => .refused .answerMismatch
  | .waitCap, .bytes c => endRead c s
  | .waitCap, .fail => endFailed s
  | .waitCap, .done => .refused .answerMismatch
  | .idle, _ => if 0 < s.abandoned then .next { s with abandoned := s.abandoned - 1 } else .refused .noStep
  | .faulted, _ => .refused .noStep

/-! The configuration port. -/

/-- The host writes `CFG.pad_ext_write` (10_state.md R25): a legal value, in `IDLE`. -/
def writePad (v : Option Nat) (s : State) : Result :=
  match s.phase with
  | .idle =>
    if padLegal v then .next { s with cfg := { s.cfg with padExtWrite := v } } else .refused .illegalPadLength
  | _ => .refused .notIdle

/-- The host writes `CFG.opc_regread` (10_state.md R25): a legal value, in `IDLE`. -/
def writeOpc (v : BitVec 3) (s : State) : Result :=
  match s.phase with
  | .idle =>
    if opcLegal v then .next { s with cfg := { s.cfg with opcRegread := v } } else .refused .illegalReadOpcode
  | _ => .refused .notIdle

end Sys2Proof.Machine
end

