-- ==== Sys2Proof/Machine/Extended.lean ====
section
/-! DEFINITION. Machine/Extended.lean: the extended family (42_extended.md): frames and meanings. -/

namespace Sys2Proof.Machine

open Sys2Proof

/-- ExtWrite's frame (R130): format F-EW, padded as `CFG.pad_ext_write` says. -/
def frameExtWrite (a : RegisterAccess) (c : Cfg) : Except FramerError Bits :=
  formatEW a.sa a.regAddr (byteCountOf .extWrite a) a.payload c.padExtWrite

/-- ExtRead's frame (R131): format F-ER. -/
def frameExtRead (a : RegisterAccess) : Except FramerError Bits :=
  formatER a.sa a.regAddr (byteCountOf .extRead a)

/-- ExtReadHighRate's frame (R132): format F-ER, as ExtRead's. -/
def frameExtReadHighRate (a : RegisterAccess) : Except FramerError Bits :=
  formatER a.sa a.regAddr (byteCountOf .extReadHighRate a)

/-- ExtWrite (R130). -/
def execExtWrite (a : RegisterAccess) (s : State) : Result := accept .extWrite a (frameExtWrite a s.cfg) s

/-- ExtRead (R131). -/
def execExtRead (a : RegisterAccess) (s : State) : Result := accept .extRead a (frameExtRead a) s

/-- ExtReadHighRate (R132): it differs from ExtRead in the kind code handed to the collaborator. -/
def execExtReadHighRate (a : RegisterAccess) (s : State) : Result :=
  accept .extReadHighRate a (frameExtReadHighRate a) s

end Sys2Proof.Machine
end

