-- ==== Sys2Proof/Machine/ExtendedLong.lean ====
section
/-! DEFINITION. Machine/ExtendedLong.lean: the extended-long family (43_extended_long.md): frames and meanings. -/

namespace Sys2Proof.Machine

open Sys2Proof

/-- ExtLongWrite's frame (R150): format F-LW. `CFG.pad_ext_write` has no effect. -/
def frameExtLongWrite (a : RegisterAccess) : Except FramerError Bits :=
  formatLW a.sa a.regAddr (byteCountOf .extLongWrite a) a.payload

/-- ExtLongRead's frame (R151): format F-LR. -/
def frameExtLongRead (a : RegisterAccess) : Except FramerError Bits :=
  formatLR a.sa a.regAddr (byteCountOf .extLongRead a)

/-- ExtLongReadHighRate's frame (R152): format F-LR, as ExtLongRead's. -/
def frameExtLongReadHighRate (a : RegisterAccess) : Except FramerError Bits :=
  formatLR a.sa a.regAddr (byteCountOf .extLongReadHighRate a)

/-- ExtLongWrite (R150). -/
def execExtLongWrite (a : RegisterAccess) (s : State) : Result := accept .extLongWrite a (frameExtLongWrite a) s

/-- ExtLongRead (R151). -/
def execExtLongRead (a : RegisterAccess) (s : State) : Result := accept .extLongRead a (frameExtLongRead a) s

/-- ExtLongReadHighRate (R152): it differs from ExtLongRead in the kind code handed to the collaborator. -/
def execExtLongReadHighRate (a : RegisterAccess) (s : State) : Result :=
  accept .extLongReadHighRate a (frameExtLongReadHighRate a) s

end Sys2Proof.Machine
end

