-- ==== Sys2Proof/Machine/Register.lean ====
section
/-! DEFINITION. Machine/Register.lean: the register family (41_register.md). For each kind the frame its rule builds and
its meaning, the shared transaction of 40_transaction.md R90 with that frame. -/

namespace Sys2Proof.Machine

open Sys2Proof

/-- RegZeroWrite's frame (R110): format F-R0. `reg_addr` and `byte_count` are not read. -/
def frameRegZeroWrite (a : RegisterAccess) : Except FramerError Bits := formatR0 a.sa (firstPayload a)

/-- RegWrite's frame (R111): format F-RW. -/
def frameRegWrite (a : RegisterAccess) : Except FramerError Bits := formatRW a.sa a.regAddr a.payload

/-- RegRead's frame (R112): format F-RR. -/
def frameRegRead (a : RegisterAccess) (c : Cfg) : Except FramerError Bits := formatRR a.sa a.regAddr c.opcRegread

/-- RegReadHighRate's frame (R113): format F-RR, as RegRead's. -/
def frameRegReadHighRate (a : RegisterAccess) (c : Cfg) : Except FramerError Bits :=
  formatRR a.sa a.regAddr c.opcRegread

/-- RegZeroWrite (R110). -/
def execRegZeroWrite (a : RegisterAccess) (s : State) : Result := accept .regZeroWrite a (frameRegZeroWrite a) s

/-- RegWrite (R111). -/
def execRegWrite (a : RegisterAccess) (s : State) : Result := accept .regWrite a (frameRegWrite a) s

/-- RegRead (R112). -/
def execRegRead (a : RegisterAccess) (s : State) : Result := accept .regRead a (frameRegRead a s.cfg) s

/-- RegReadHighRate (R113): it differs from RegRead in the kind code handed to the collaborator. -/
def execRegReadHighRate (a : RegisterAccess) (s : State) : Result :=
  accept .regReadHighRate a (frameRegReadHighRate a s.cfg) s

end Sys2Proof.Machine
end

