-- ==== Sys2Proof/Machine/Dispatch.lean ====
section
/-! DEFINITION. Machine/Dispatch.lean: the meaning of an instruction, one arm per constructor (40_transaction.md R100). -/

namespace Sys2Proof.Machine

open Sys2Proof

def exec (i : Instr) (s : State) : Host.Outcome State Fault Refusal :=
  match i with
  | .regZeroWrite a => Sys2Proof.Machine.execRegZeroWrite a s
  | .regWrite a => Sys2Proof.Machine.execRegWrite a s
  | .regRead a => Sys2Proof.Machine.execRegRead a s
  | .regReadHighRate a => Sys2Proof.Machine.execRegReadHighRate a s
  | .extWrite a => Sys2Proof.Machine.execExtWrite a s
  | .extRead a => Sys2Proof.Machine.execExtRead a s
  | .extReadHighRate a => Sys2Proof.Machine.execExtReadHighRate a s
  | .extLongWrite a => Sys2Proof.Machine.execExtLongWrite a s
  | .extLongRead a => Sys2Proof.Machine.execExtLongRead a s
  | .extLongReadHighRate a => Sys2Proof.Machine.execExtLongReadHighRate a s

end Sys2Proof.Machine
end

