-- ==== Sys2Proof/Machine/Batch.lean ====
section
/-! DEFINITION. Machine/Batch.lean: presenting a request to the framer, and the host's batch sequencer
(45_batch.md). -/

namespace Sys2Proof.Machine

open Sys2Proof

/-- The host presents a request (40_transaction.md R90): the kind check first (R91), then the kind's meaning. -/
def presentRequest (r : Request) (s : State) : Result :=
  match decodeRequest r with
  | .ok i => exec i s
  | .error _ => acceptUnmapped r s

/-- A request that may stand in a batch's list of writes, or of reads, for `write` true or false (R194): of that
direction, or of an unmapped code. -/
def batchElementOk (write : Bool) (r : Request) : Bool :=
  match kindOfCode r.kind with
  | some k => (desc k).isWrite == write
  | none => true

/-- A well-formed batch (R194). -/
def batchOk (writes reads : List Request) : Bool :=
  writes.all (batchElementOk true) && reads.all (batchElementOk false)

/-- The request at a batch's position (R190, R191): a write while any is left, then a read. -/
def BatchRun.current (b : BatchRun) : Option Request :=
  if b.i < b.writes.length then b.writes[b.i]? else b.reads[b.j]?

/-- Whether a batch is in progress. -/
def Batch.isRunning : Batch → Bool
  | .running _ => true
  | _ => false

/-- The host starts a batch (R190, R194). When it may is said in `enabled` (log 12). -/
def startBatch (writes reads : List Request) (s : State) : Result :=
  if batchOk writes reads then
    .next { s with
      batch := .running
        { writes := writes, reads := reads, i := 0, j := 0, results := [], performing := false } }
  else .refused .malformedBatch

/-- The position after the request at it ended with `OK` (R190): past a write, or past a read with its result. -/
def BatchRun.advance (b : BatchRun) (rdata : List Byte) : BatchRun :=
  if b.i < b.writes.length then { b with i := b.i + 1, performing := false }
  else { b with j := b.j + 1, results := b.results ++ [rdata], performing := false }

/-- The sequencer looks at the outcome of the request it performed (R190, R192). -/
def batchLook (b : BatchRun) (s : State) : State :=
  if s.status.code = .ok then { s with batch := .running (b.advance s.rdata) }
  else { s with batch := .aborted s.status }

/-- The sequencer's next move (R190): look at an outcome, present the request at the position, or finish. -/
def batchMove (s : State) : Result :=
  match s.batch with
  | .running b =>
    if b.performing then .next (batchLook b s)
    else
      match b.current with
      | some q => presentRequest q { s with batch := .running { b with performing := true } }
      | none => .next { s with batch := .completed b.results }
  | _ => .refused .noStep

/-- Whether the sequencer has a move (R190): the transaction it waits for has ended, or the framer is in `IDLE` for its
next request, or it has nothing left to perform, which asks for no phase (R194). -/
def batchReady (s : State) : Bool :=
  match s.batch with
  | .running b =>
    if b.performing then !s.phase.waiting
    else b.current.isNone || decide (s.phase = .idle)
  | _ => false

end Sys2Proof.Machine
end

