-- ==== Sys2Proof/Machine/Events.lean ====
section
/-! DEFINITION. Machine/Events.lean: the moves of the host and the collaborator (60_exceptions.md R233): when each has a
step (10_state.md R23), and what it does. -/

namespace Sys2Proof.Machine

open Sys2Proof

/-- Whether a move has a step in a state (10_state.md R23, R25, 60_exceptions.md R233). A request and a new batch wait
while a batch is in progress, since the host is then running it. DESIGN CHOICE (log 12): a batch may be started in any
phase, since 45_batch.md R190 and R194 name none for it; its requests are presented in `IDLE` only (`batchReady`). A
collaborator answers only a call that was made: the outstanding one, or in `IDLE` one that a reset abandoned (log 8). -/
def enabled (s : State) : Event → Bool
  | .present _ => decide (s.phase = .idle) && !s.batch.isRunning
  | .writePad _ => decide (s.phase = .idle)
  | .writeOpc _ => decide (s.phase = .idle)
  | .reset => true
  | .startBatch _ _ => !s.batch.isRunning
  | .batchMove => batchReady s
  | .answer _ => s.phase.waiting || (decide (s.phase = .idle) && decide (0 < s.abandoned))

/-- The moves that the host makes in one order: a request, a configuration write, the start of a batch. One of them
that waits holds the others behind it, since the host that waits has no step (92_eei_decisions.md D32), and so requests
are performed in the order presented (20_memory.md R53). A reset is none of them: it may come in any phase
(70_reset_and_hazards.md R240) and ends the wait in `FAULTED`. Nor is a move of the batch in progress, which is what a
request then waits for (log 5). -/
def Event.inHostOrder : Event → Bool
  | .present _ => true
  | .writePad _ => true
  | .writeOpc _ => true
  | .startBatch _ _ => true
  | .reset => false
  | .batchMove => false
  | .answer _ => false

/-- The first of the coming moves that has a step, and the others in their order; while `held`, an earlier move of the
host waits (log 5). -/
def pickFrom (s : State) (held : Bool) : List Event → Option (Event × List Event)
  | [] => none
  | e :: es =>
    if enabled s e && !(held && e.inHostOrder) then some (e, es)
    else
      match pickFrom s (held || e.inHostOrder) es with
      | some (e', es') => some (e', e :: es')
      | none => none

/-- The coming move a step takes, and the others in their order (log 5). -/
def pick (s : State) (es : List Event) : Option (Event × List Event) := pickFrom s false es

/-- What a move does. -/
def perform (e : Event) (s : State) : Result :=
  match e with
  | .present r => presentRequest r s
  | .writePad v => writePad v s
  | .writeOpc v => writeOpc v s
  | .reset => .next s.hardReset
  | .startBatch ws rs => startBatch ws rs s
  | .batchMove => batchMove s
  | .answer a => takeAnswer a s

/-- The state one of the defensive errors leaves: `FAULTED` with code 6 or 7 (60_exceptions.md R215, R217). -/
def defensive (s : State) : Bool :=
  decide (s.phase = .faulted) && (decide (s.status.code = .range) || decide (s.status.code = .buildMisuse))

/-- The outcome of a state from which there is no move. The states of `defensive` are faults (R215, R217, D31); in any
other the host or the collaborator waits (R23, D32). -/
def noMove (s : State) : Result :=
  if defensive s then
    match s.status.code with
    | .range => .fault .rangeError
    | _ => .fault .buildMisuse
  else .refused .noStep

/-- A move once it is picked: from a state of `defensive` every move but a reset is the fault that R215 and R217 ask
for (log 10). -/
def performGuarded (e : Event) (s : State) : Result :=
  if defensive s && decide (e ≠ .reset) then noMove s else perform e s

end Sys2Proof.Machine
end

