-- ==== Sys2Proof/Machine/Step.lean ====
section
/-! DEFINITION. Machine/Step.lean: one step of the machine (70_reset_and_hazards.md R253), and how the host's checks
place an instruction. -/

namespace Sys2Proof.Machine

open Sys2Proof

/-- One step: the first coming move that has a step is taken (log 5). -/
def step (s : State) : Host.Outcome State Fault Refusal :=
  match pick s s.inputs with
  | some (e, rest) => performGuarded e { s with inputs := rest }
  | none => noMove s

/-- `s` with the request whose bits are `w` as the host's next move (log 6). The framer fetches nothing (10_state.md
R22): a request is presented. For it to be taken next the phase is `IDLE` and no batch is in progress. -/
def State.withFetchWord (s : State) (nbits w : Nat) : State :=
  { s with
    phase := .idle
    batch := if s.batch.isRunning then .idle else s.batch
    inputs := .present (requestOfWord nbits w) :: s.inputs }

end Sys2Proof.Machine
end

