-- ==== Sys2Proof/Machine/System.lean ====
section
/-! DEFINITION. Machine/System.lean: several framer instances (20_memory.md R54, 60_exceptions.md R226): a list of
machines that share nothing; any of them may take the next step. -/

namespace Sys2Proof.Machine

open Sys2Proof

/-- Instance `k` of a system takes a step; the others stand. Every order of the `k`s is a run (R54). -/
def systemStep (k : Nat) (ss : List State) : Host.Outcome (List State) Fault Refusal :=
  match ss[k]? with
  | some s =>
    match step s with
    | .next t => .next (ss.set k t)
    | .fault f => .fault f
    | .refused r => .refused r
  | none => .refused .noStep

end Sys2Proof.Machine
end

