-- ==== Sys2Proof/Machine/Build.lean ====
section
/-! DEFINITION. Machine/Build.lean: `build_frame` as one function of kind, operands and configuration
(40_transaction.md R100), from the frames the families define. The meanings call the families' frames directly. -/

namespace Sys2Proof.Machine

open Sys2Proof

/-- `build_frame(kind, sa, addr, bc, payload, CFG)` (R100). -/
def buildFrame (k : Kind) (a : RegisterAccess) (c : Cfg) : Except FramerError Bits :=
  match k with
  | .regZeroWrite => frameRegZeroWrite a
  | .regWrite => frameRegWrite a
  | .regRead => frameRegRead a c
  | .regReadHighRate => frameRegReadHighRate a c
  | .extWrite => frameExtWrite a c
  | .extRead => frameExtRead a
  | .extReadHighRate => frameExtReadHighRate a
  | .extLongWrite => frameExtLongWrite a
  | .extLongRead => frameExtLongRead a
  | .extLongReadHighRate => frameExtLongReadHighRate a

/-- The collaborator call that hands over the frame of a request (60_exceptions.md R231, R232). -/
def callFor (k : Kind) (a : RegisterAccess) (f : Bits) : Call :=
  if (desc k).isWrite then .transmit f (kindCode k) a.timeout
  else .transmitAndCapture f (kindCode k) (byteCountOf k a) a.timeout

end Sys2Proof.Machine
end

