-- ==== Sys2Proof/Safety.lean ====
section
/-! DEFINITION. Safety.lean: what holds of the machine in every run: the invariant of the framer's records and of the
agents around it, in the terms the statements use. -/

namespace Sys2Proof.Machine

open Sys2Proof

/-- The move `e` was taken out of the coming moves `es`, which left the others, `rest`, in their order. -/
def TakenFrom (es : List Event) (e : Event) (rest : List Event) : Prop :=
  ∃ before after, es = before ++ e :: after ∧ rest = before ++ after

/-- A request `r` was presented in `s`, leaving the moves `rest` and the batch sequencer at `bt`: the host's own
(40_transaction.md R90), or the one at the position of the batch in progress (45_batch.md R190). -/
def Presented (s : State) (rest : List Event) (bt : Batch) (r : Request) : Prop :=
  (TakenFrom s.inputs (.present r) rest ∧ s.batch.isRunning = false ∧ bt = s.batch) ∨
  (TakenFrom s.inputs .batchMove rest ∧ ∃ b, s.batch = .running b ∧ b.performing = false ∧ b.current = some r ∧
    bt = .running { b with performing := true })

/-- The transaction in progress, of direction `write`: `REQ` holds a validated request of that direction, `FRAME` is its
frame under the present `CFG`, and the last collaborator call handed over just that (40_transaction.md R90, 10_state.md
R26). -/
structure InFlight (write : Bool) (s : State) : Prop where
  latched : s.reqValid = true
  request : ∃ k a, s.req = { kind := kindCode k, access := a } ∧ (desc k).isWrite = write ∧
    validate k a = .ok () ∧ buildFrame k a s.cfg = .ok s.frame ∧ s.calls.getLast? = some (callFor k a s.frame)

/-- A batch in progress is at a position of its lists, reads only after all writes, with a result for each read done
(45_batch.md R190, R191, R193), and its lists are well formed (R194). -/
structure BatchRun.Inv (b : BatchRun) : Prop where
  lists : batchOk b.writes b.reads = true
  write_position : b.i ≤ b.writes.length
  read_position : b.j ≤ b.reads.length
  writes_first : 0 < b.j → b.i = b.writes.length
  results_so_far : b.results.length = b.j
  performing_one : b.performing = true → b.current.isSome = true

/-- `STATUS` without error has no detail (10_state.md R24). -/
def Status.quiet (st : Status) : Prop :=
  st.code = .none ∨ st.code = .ok → st.field = .none ∧ st.lo = 0 ∧ st.hi = .upTo 0 ∧ st.observed = 0

/-- The invariant of the machine. -/
structure Inv (s : State) : Prop where
  /-- `CFG` holds legal values (R25). -/
  cfg_legal : cfgLegal s.cfg = true
  /-- `RDATA` holds at most 16 bytes (R27). -/
  rdata_short : s.rdata.length ≤ 16
  /-- `STATUS` without error has no detail (R24). -/
  status_quiet : s.status.quiet
  /-- The defensive errors never happened (60_exceptions.md R215, R217). -/
  no_range : s.status.code ≠ .range
  no_misuse : s.status.code ≠ .buildMisuse
  /-- `FAULTED` is the state UnsupportedCommandError leaves, and no other (R213). -/
  faulted_iff : s.phase = .faulted ↔ s.status.code = .unsupportedCommand
  /-- `WAIT_TX` belongs to a write in progress, `WAIT_CAP` to a read (R23). -/
  write_in_flight : s.phase = .waitTx → InFlight true s
  read_in_flight : s.phase = .waitCap → InFlight false s
  /-- A call is outstanding or abandoned only if it was made (60_exceptions.md R233; the count of the abandoned is
  log 8, the record of the calls log 13). -/
  calls_made : s.abandoned + (if s.phase.waiting then 1 else 0) ≤ s.calls.length
  /-- The batch sequencer keeps its order (R190 to R194). -/
  batch_inv : ∀ b, s.batch = .running b → b.Inv
  /-- Once a request of a batch has ended and the next is not presented, the framer is in `IDLE` (R190, R191; that the
  host presents nothing of its own meanwhile is log 12). -/
  batch_between : ∀ b, s.batch = .running b → b.performing = false → 0 < b.i ∨ 0 < b.j → s.phase = .idle

end Sys2Proof.Machine
end

