-- ==== Sys2Proof/Certificates/Slice0/Obligations.lean ====
section
/-! DEFINITION. Certificates/Slice0/Obligations.lean: the statements for the provers. The first part is the vocabulary
they use: bit fields, parity and frames written from the format tables of 30_encoding.md R67 to R73 without the model's
own builders, and the states the rules give. -/

namespace Sys2Proof.Spec

open Sys2Proof Sys2Proof.Machine

/-- A field of `w` bits of `v`, bit w−1 first (30_encoding.md R43, R63). -/
def field (w v : Nat) : Bits := (List.range w).map fun i => v.testBit (w - 1 - i)

/-- The parity bit of a group as the complement of the exclusive or of its bits (R64). -/
def parity (g : Bits) : Bits := [!(g.foldl Bool.xor false)]

/-- A byte with its parity bit (R65). -/
def byte (v : Nat) : Bits := field 8 v ++ parity (field 8 v)

/-- The data frame of an extended write (R66). -/
def bytes (p : List Byte) : Bits := (p.map fun d => byte d.toNat).flatten

/-- F-R0 (R67). -/
def frameR0 (sa d : Nat) : Bits := field 4 sa ++ field 7 d ++ parity (field 4 sa ++ field 7 d)

/-- The command frame of F-RW and F-RR (R68, R69) for a 3-bit opcode. -/
def frameRegister (sa : Nat) (opcode : Bits) (addr : Nat) : Bits :=
  field 4 sa ++ opcode ++ field 5 addr ++ parity (field 4 sa ++ opcode ++ field 5 addr)

/-- The command and address frame of F-EW and F-ER (R70, R71), for the sub-opcode bit of R75. -/
def frameExtended (sub : Bit) (sa addr bc : Nat) : Bits :=
  field 4 sa ++ field 4 (bc - 1) ++ parity (sub :: field 4 (bc - 1)) ++ byte addr

/-- The command and address frame of F-LW and F-LR (R72, R73), for the sub-opcode bit of R75. -/
def frameLong (sub : Bit) (sa addr bc : Nat) : Bits :=
  field 4 sa ++ field 3 (bc - 1) ++ parity (sub :: field 3 (bc - 1)) ++ byte (addr / 256) ++ byte (addr % 256)

/-- The zeros of R76 behind an ExtWrite frame of `n` bits. -/
def padding (pad : Option Nat) (n : Nat) : Bits :=
  match pad with
  | some l => List.replicate (l - n) false
  | none => []

/-- The state after a write of the given kind code was accepted (40_transaction.md R90): `REQ` latched, `FRAME` built,
one `Transmit` made, `WAIT_TX`; everything else as before. -/
def acceptedWrite (code : BitVec 4) (a : RegisterAccess) (f : Bits) (s : State) : State :=
  { s with phase := .waitTx, req := { kind := code, access := a }, reqValid := true, frame := f,
           calls := s.calls ++ [.transmit f code a.timeout] }

/-- The state after a read of the given kind code was accepted (R90): as for a write, with one `TransmitAndCapture`
for the explicit byte count, and `WAIT_CAP`. -/
def acceptedRead (code : BitVec 4) (a : RegisterAccess) (f : Bits) (s : State) : State :=
  { s with phase := .waitCap, req := { kind := code, access := a }, reqValid := true, frame := f,
           calls := s.calls ++ [.transmitAndCapture f code a.byteCount a.timeout] }

/-- The state after a request was rejected (60_exceptions.md R219): `REQ` latched, `STATUS` written; everything else as
before, the phase still `IDLE`. -/
def rejected (i : Instr) (st : Status) (s : State) : State :=
  { s with req := encodeRequest i, reqValid := true, status := st }

/-- The greatest register address of the kinds that have one (40_transaction.md R95). -/
def greatestAddress : Kind → Nat
  | .regZeroWrite => 0
  | .regWrite | .regRead | .regReadHighRate => 0x1F
  | .extWrite | .extRead | .extReadHighRate => 0xFF
  | .extLongWrite | .extLongRead | .extLongReadHighRate => 0xFFFF

/-- The greatest byte count of a kind (R96); the least is 1 for every kind. -/
def greatestCount : Kind → Nat
  | .regZeroWrite | .regWrite | .regRead | .regReadHighRate => 1
  | .extWrite | .extRead | .extReadHighRate => 16
  | .extLongWrite | .extLongRead | .extLongReadHighRate => 8

/-- The kinds that write (R60). -/
def writes : Kind → Bool
  | .regZeroWrite | .regWrite | .extWrite | .extLongWrite => true
  | _ => false

/-- The byte count of a request (R92). -/
def count (i : Instr) : Nat := if writes i.kind then i.access.payload.length else i.access.byteCount

/-- The register address is in the kind's range (R95). -/
def addressOk (i : Instr) : Prop := i.kind = .regZeroWrite ∨ i.access.regAddr ≤ greatestAddress i.kind

/-- The byte count is in the kind's range (R96). -/
def countOk (i : Instr) : Prop := 1 ≤ count i ∧ count i ≤ greatestCount i.kind

/-- RegZeroWrite's payload byte is at most 0x7F (R97). -/
def reg0Ok (i : Instr) : Prop := i.kind = .regZeroWrite → ∀ d, i.access.payload = [d] → d.toNat ≤ 0x7F

/-- The length of a built frame (R74). -/
def frameLength (i : Instr) (c : Cfg) : Nat :=
  match i.kind with
  | .regZeroWrite => 12
  | .regWrite => 22
  | .regRead | .regReadHighRate => 13
  | .extWrite => match c.padExtWrite with
    | some l => l
    | none => 18 + 9 * count i
  | .extRead | .extReadHighRate => 18
  | .extLongWrite => 26 + 9 * count i
  | .extLongRead | .extLongReadHighRate => 26

/-- A bit sequence with an odd number of ones (R83). -/
def odd (g : Bits) : Prop := (g.filter (· = true)).length % 2 = 1

/-- The call that hands over an instruction's frame (60_exceptions.md R231, R232). -/
def call (i : Instr) (f : Bits) : Call :=
  if writes i.kind then .transmit f (kindCode i.kind) i.access.timeout
  else .transmitAndCapture f (kindCode i.kind) (count i) i.access.timeout

/-- R23, the rows from `IDLE` to `WAIT_TX` and to `WAIT_CAP`: a request of a write kind, or of a read kind, was presented
and validated, and the step wrote `REQ`, built `FRAME` and made the one call. -/
def acceptedByStep (s t : State) : Prop :=
  s.phase = .idle ∧ ∃ i : Instr, Presented s t.inputs t.batch (encodeRequest i) ∧ i.access.sa ≤ 0xF ∧ addressOk i ∧
    countOk i ∧ reg0Ok i ∧ buildFrame i.kind i.access s.cfg = .ok t.frame ∧
    t = { s with
      phase := if writes i.kind then .waitTx else .waitCap
      req := encodeRequest i, reqValid := true, frame := t.frame, calls := s.calls ++ [call i t.frame]
      batch := t.batch, inputs := t.inputs }

/-- R23, the row from `IDLE` to `FAULTED`: a request with an unmapped code was presented. -/
def faultedByStep (s t : State) : Prop :=
  s.phase = .idle ∧ ∃ r : Request, Presented s t.inputs t.batch r ∧ 10 ≤ r.kind.toNat ∧
    t = { s with
      phase := .faulted, req := r, reqValid := true
      status := { code := .unsupportedCommand, kind := r.kind, field := .kind, lo := 0, hi := .upTo 9,
                  observed := r.kind.toNat }
      batch := t.batch, inputs := t.inputs }

/-- `STATUS` of a transaction that ended without a detail, for `REQ.kind` (10_state.md R24). -/
def plainStatus (code : StatusCode) (s : State) : Status :=
  { code := code, kind := s.req.kind, field := .none, lo := 0, hi := .upTo 0, observed := 0 }

/-- R23, the rows from `WAIT_TX` and `WAIT_CAP` to `IDLE`: the collaborator's answer was taken, and ended the
transaction. -/
def endedByStep (s t : State) : Prop :=
  (s.phase = .waitTx ∧ TakenFrom s.inputs (.answer .done) t.inputs ∧
    t = { s with phase := .idle, status := plainStatus .ok s, inputs := t.inputs }) ∨
  ((s.phase = .waitTx ∨ s.phase = .waitCap) ∧ TakenFrom s.inputs (.answer .fail) t.inputs ∧
    t = { s with phase := .idle, status := plainStatus .collaborator s, inputs := t.inputs }) ∨
  (s.phase = .waitCap ∧ ∃ c, TakenFrom s.inputs (.answer (.bytes c)) t.inputs ∧
    ((s.req.access.byteCount ≤ c.length ∧
      t = { s with phase := .idle, status := plainStatus .ok s, rdata := c.take s.req.access.byteCount,
                   inputs := t.inputs }) ∨
     (c.length < s.req.access.byteCount ∧
      t = { s with phase := .idle, inputs := t.inputs
                   status := { code := .captureShortfall, kind := s.req.kind, field := .capture,
                               lo := s.req.access.byteCount, hi := .unbounded, observed := c.length } })))

/-- R23, the row of a reset, from any phase (70_reset_and_hazards.md R240). -/
def resetByStep (s t : State) : Prop :=
  TakenFrom s.inputs .reset t.inputs ∧ t = { s with inputs := t.inputs }.hardReset

/-- The steps that keep the phase, but for a reset: a rejected request (R23, its third row), a legal configuration write
(R25) and a discarded late answer (R240; its count is log 8), all in `IDLE`; and the start of a batch or a move of the
sequencer, which change nothing of the framer (45_batch.md R190, log 12). -/
def keptByStep (s t : State) : Prop :=
  (s.phase = .idle ∧ ∃ i : Instr, Presented s t.inputs t.batch (encodeRequest i) ∧ t.status.code = .validation ∧
    ¬ (i.access.sa ≤ 0xF ∧ addressOk i ∧ countOk i ∧ reg0Ok i) ∧
    t = { s with req := encodeRequest i, reqValid := true, status := t.status, batch := t.batch, inputs := t.inputs }) ∨
  (s.phase = .idle ∧ (∃ v, TakenFrom s.inputs (.writePad v) t.inputs ∧
    t = { s with cfg := { s.cfg with padExtWrite := v }, inputs := t.inputs })) ∨
  (s.phase = .idle ∧ (∃ v, TakenFrom s.inputs (.writeOpc v) t.inputs ∧
    t = { s with cfg := { s.cfg with opcRegread := v }, inputs := t.inputs })) ∨
  (s.phase = .idle ∧ 0 < s.abandoned ∧ (∃ a, TakenFrom s.inputs (.answer a) t.inputs) ∧
    t = { s with abandoned := s.abandoned - 1, inputs := t.inputs }) ∨
  (((∃ ws rs, TakenFrom s.inputs (.startBatch ws rs) t.inputs) ∨ TakenFrom s.inputs .batchMove t.inputs) ∧
    t = { s with batch := t.batch, inputs := t.inputs })

/-- The host's and collaborator's moves that perform a list of writes (45_batch.md R190): present, `DONE`, look. -/
def writeMoves (n : Nat) : List Event :=
  (List.replicate n [Event.batchMove, Event.answer .done, Event.batchMove]).flatten

/-- The moves that perform reads with the given captures: present, `BYTES(c)`, look. -/
def readMoves (caps : List (List Byte)) : List Event :=
  (caps.map fun c => [Event.batchMove, Event.answer (.bytes c), Event.batchMove]).flatten

end Sys2Proof.Spec

open Sys2Proof Sys2Proof.Machine

/-! ### Encoding and decoding -/

/-- Decode and encode agree: every well-formed instruction's bytes decode to it, whatever follows. The places of the
operand fields in those bytes are the model's choice (log 1); the kind's bits are 30_encoding.md R60's. -/
def Obligations.DecodeEncodeRoundTrip : Prop :=
  ∀ (i : Instr) (rest : List Byte), i.wf = true → decode (encode i ++ rest) = .ok (i, rest)

/-- Each byte sequence has one meaning: what decodes is well formed and encodes to the bytes it was read from (log 1). -/
def Obligations.EncodeDecodeRoundTrip : Prop :=
  ∀ (bs rest : List Byte) (i : Instr), decode bs = .ok (i, rest) → i.wf = true ∧ encode i ++ rest = bs

/-- Some requests' bits written out from the kind codes of 30_encoding.md R60 (opcode_table.json, bits 3..0), with the
operand fields where log 1 puts them. -/
def Obligations.KindCodesDecodeByTheTable : Prop :=
  decodeTableWord 8 0b00110000 = some (.regZeroWrite ⟨3, 0, 0, [], ⟨0⟩⟩) ∧
  decodeTableWord 80 0x7A010000000000050031 = some (.regWrite ⟨3, 5, 0, [0x7A], ⟨0⟩⟩) ∧
  decodeTableWord 48 0x0100001F00F2 = some (.regRead ⟨15, 0x1F, 1, [], ⟨0⟩⟩) ∧
  decodeTableWord 48 0x010000050033 = some (.regReadHighRate ⟨3, 5, 1, [], ⟨0⟩⟩) ∧
  decodeTableWord 88 0x00A50200000000002C0014 = some (.extWrite ⟨1, 0x2C, 0, [0xA5, 0x00], ⟨0⟩⟩) ∧
  decodeTableWord 48 0x040000100025 = some (.extRead ⟨2, 0x10, 4, [], ⟨0⟩⟩) ∧
  decodeTableWord 48 0x100000FF00F6 = some (.extReadHighRate ⟨15, 0xFF, 16, [], ⟨0⟩⟩) ∧
  decodeTableWord 80 0xFF010000000012340077 = some (.extLongWrite ⟨7, 0x1234, 0, [0xFF], ⟨0⟩⟩) ∧
  decodeTableWord 48 0x0800BEEF0098 = some (.extLongRead ⟨9, 0xBEEF, 8, [], ⟨0⟩⟩) ∧
  decodeTableWord 48 0x030000FF0059 = some (.extLongReadHighRate ⟨5, 0xFF, 3, [], ⟨0⟩⟩) ∧
  decodeTableWord 8 0b00001010 = none ∧ decodeTableWord 8 0b00001111 = none

/-- 30_encoding.md R61, 40_transaction.md R91: codes 10 to 15 select no kind and the others each select one; a request
with an unmapped code, whatever its operands, raises UnsupportedCommandError before any validation, builds no frame,
calls nobody and enters `FAULTED`. The detail record and `FAULTED` are 60_exceptions.md R213's, which are the spec's own
decisions D14 (what fatal means) and D4 (the record's numbers), as the codes are its decision D2. -/
def Obligations.UnmappedCodeFaultsTheFramer : Prop :=
  (∀ r : Request, (∃ i, decodeRequest r = .ok i) ↔ r.kind.toNat ≤ 9) ∧
  (∀ (s : State) (r : Request), s.phase = .idle → 10 ≤ r.kind.toNat →
    presentRequest r s = .next { s with
      req := r, reqValid := true, phase := .faulted
      status := { code := .unsupportedCommand, kind := r.kind, field := .kind, lo := 0, hi := .upTo 9,
                  observed := r.kind.toNat } })

/-! ### A step -/

/-- A step runs the presented request: in `IDLE`, with the host free to present, a request that decodes to `i` is
executed as `i`, and one with an unmapped code is presented as such; the request is taken off the coming moves (log 5),
and nothing else is added. -/
def Obligations.StepRunsThePresentedInstruction : Prop :=
  ∀ (s : State) (r : Request) (rest : List Event), s.phase = .idle → s.batch.isRunning = false →
    s.inputs = .present r :: rest →
    (∀ i, decodeRequest r = .ok i → step s = exec i { s with inputs := rest }) ∧
    (10 ≤ r.kind.toNat → step s = presentRequest r { s with inputs := rest })

/-- The bytes form of the same: a request placed by its bits runs as what they decode to (log 1, log 6). -/
def Obligations.FetchedWordRuns : Prop :=
  ∀ (s : State) (nbits w : Nat) (i : Instr), decodeTableWord nbits w = some i →
    step (s.withFetchWord nbits w) = exec i { s.withFetchWord nbits w with inputs := s.inputs }

/-- A request presented while a transaction is in progress waits (70_reset_and_hazards.md R244): the step is the one
that the collaborator's answer behind it makes, and the request is still the next move, not lost. The same of a
configuration write (60_exceptions.md R233), and of the start of a batch behind one that waits. The scheduling is the
model's choice (log 5). -/
def Obligations.PresentedRequestWaitsForIdle : Prop :=
  ∀ (s u : State) (e : Event) (a : Answer) (rest : List Event), s.phase.waiting = true →
    ((∃ r, e = .present r) ∨ (∃ v, e = .writePad v) ∨ (∃ v, e = .writeOpc v)) →
    step { s with inputs := .answer a :: rest } = .next u →
    u.inputs = rest ∧
    (s.inputs = e :: .answer a :: rest → step s = .next { u with inputs := e :: rest }) ∧
    (∀ ws rs, s.inputs = e :: .startBatch ws rs :: .answer a :: rest →
      step s = .next { u with inputs := e :: .startBatch ws rs :: rest })

/-! ### Bits and parity -/

/-- 30_encoding.md R63: `to_bits` returns the w bits of a value most significant first, and raises RangeError with the
value and its bounds when it does not fit; it never truncates; and a validated request's frame is always built, so that
the error does not come up there. -/
def Obligations.ToBitsIsMostSignificantFirst : Prop :=
  (∀ (f : StatusField) (v w : Nat),
    (v < 2 ^ w → ∃ bs, toBits f v w = .ok bs ∧ bs.length = w ∧
      ∀ i, i < w → bs[i]? = some (v.testBit (w - 1 - i))) ∧
    (2 ^ w ≤ v → toBits f v w = .error (.range f (2 ^ w - 1) v))) ∧
  (∀ (k : Kind) (a : RegisterAccess) (c : Cfg), validate k a = .ok () → ∃ f, buildFrame k a c = .ok f)

/-- 30_encoding.md R64: `odd_parity` is 1 exactly when the number of ones is even, so that with it the number of ones
is odd. -/
def Obligations.OddParityMakesTheOnesOdd : Prop :=
  ∀ bs : Bits, (oddParity bs = true ↔ (bs.filter (· = true)).length % 2 = 0) ∧
    ((bs ++ [oddParity bs]).filter (· = true)).length % 2 = 1

/-! ### The instructions: result and completion -/

/-- RegZeroWrite (41_register.md R110, format F-R0): in `IDLE`, with a legal slave address and one payload byte up to
0x7F, it completes with the 12-bit frame. That the parity covers slave address and data is the spec's own decision D6;
the payload bound is its decision D8. Any register address and byte count are ignored. -/
def Obligations.RegZeroWriteHandsOverItsFrame : Prop :=
  ∀ (s : State) (a : RegisterAccess) (d : Byte), s.phase = .idle → a.sa ≤ 0xF → a.payload = [d] → d.toNat ≤ 0x7F →
    exec (.regZeroWrite a) s = .next (Spec.acceptedWrite 0b0000#4 a (Spec.frameR0 a.sa d.toNat) s)

/-- RegWrite (41_register.md R111, format F-RW of 30_encoding.md R68). -/
def Obligations.RegWriteHandsOverItsFrame : Prop :=
  ∀ (s : State) (a : RegisterAccess) (d : Byte), s.phase = .idle → a.sa ≤ 0xF → a.regAddr ≤ 0x1F → a.payload = [d] →
    exec (.regWrite a) s = .next
      (Spec.acceptedWrite 0b0001#4 a
        (Spec.frameRegister a.sa [false, true, false] a.regAddr ++ Spec.byte d.toNat) s)

/-- RegRead and RegReadHighRate (41_register.md R112, R113, format F-RR), for every value of `CFG.opc_regread`. The
parity group is the spec's own inference (R69, derived from R68). -/
def Obligations.RegReadsHandOverTheirFrame : Prop :=
  ∀ (s : State) (a : RegisterAccess), s.phase = .idle → a.sa ≤ 0xF → a.regAddr ≤ 0x1F → a.byteCount = 1 →
    exec (.regRead a) s = .next
      (Spec.acceptedRead 0b0010#4 a (Spec.frameRegister a.sa (Spec.field 3 s.cfg.opcRegread.toNat) a.regAddr) s) ∧
    exec (.regReadHighRate a) s = .next
      (Spec.acceptedRead 0b0011#4 a (Spec.frameRegister a.sa (Spec.field 3 s.cfg.opcRegread.toNat) a.regAddr) s)

/-- ExtWrite (42_extended.md R130, format F-EW of 30_encoding.md R70, padding R76), for every legal `CFG`. -/
def Obligations.ExtWriteHandsOverItsFrame : Prop :=
  ∀ (s : State) (a : RegisterAccess), s.phase = .idle → a.sa ≤ 0xF → a.regAddr ≤ 0xFF → 1 ≤ a.payload.length →
    a.payload.length ≤ 16 → cfgLegal s.cfg = true →
    exec (.extWrite a) s = .next
      (Spec.acceptedWrite 0b0100#4 a
        (Spec.frameExtended false a.sa a.regAddr a.payload.length ++ Spec.bytes a.payload ++
          Spec.padding s.cfg.padExtWrite (18 + 9 * a.payload.length)) s)

/-- ExtRead and ExtReadHighRate (42_extended.md R131, R132, format F-ER of 30_encoding.md R71). -/
def Obligations.ExtReadsHandOverTheirFrame : Prop :=
  ∀ (s : State) (a : RegisterAccess), s.phase = .idle → a.sa ≤ 0xF → a.regAddr ≤ 0xFF → 1 ≤ a.byteCount →
    a.byteCount ≤ 16 →
    exec (.extRead a) s = .next
      (Spec.acceptedRead 0b0101#4 a (Spec.frameExtended true a.sa a.regAddr a.byteCount) s) ∧
    exec (.extReadHighRate a) s = .next
      (Spec.acceptedRead 0b0110#4 a (Spec.frameExtended true a.sa a.regAddr a.byteCount) s)

/-- ExtLongWrite (43_extended_long.md R150, format F-LW of 30_encoding.md R72): never padded. -/
def Obligations.ExtLongWriteHandsOverItsFrame : Prop :=
  ∀ (s : State) (a : RegisterAccess), s.phase = .idle → a.sa ≤ 0xF → a.regAddr ≤ 0xFFFF → 1 ≤ a.payload.length →
    a.payload.length ≤ 8 →
    exec (.extLongWrite a) s = .next
      (Spec.acceptedWrite 0b0111#4 a
        (Spec.frameLong false a.sa a.regAddr a.payload.length ++ Spec.bytes a.payload) s)

/-- ExtLongRead and ExtLongReadHighRate (43_extended_long.md R151, R152, format F-LR of 30_encoding.md R73). -/
def Obligations.ExtLongReadsHandOverTheirFrame : Prop :=
  ∀ (s : State) (a : RegisterAccess), s.phase = .idle → a.sa ≤ 0xF → a.regAddr ≤ 0xFFFF → 1 ≤ a.byteCount →
    a.byteCount ≤ 8 →
    exec (.extLongRead a) s = .next
      (Spec.acceptedRead 0b1000#4 a (Spec.frameLong true a.sa a.regAddr a.byteCount) s) ∧
    exec (.extLongReadHighRate a) s = .next
      (Spec.acceptedRead 0b1001#4 a (Spec.frameLong true a.sa a.regAddr a.byteCount) s)

/-! ### The instructions: validation -/

/-- 40_transaction.md R94: a slave address above 0xF is rejected for every kind, before every other operand; one up to
0xF is never what is reported. -/
def Obligations.SlaveAddressAboveFIsRejected : Prop :=
  ∀ (s : State) (i : Instr), s.phase = .idle →
    (0xF < i.access.sa → exec i s = .next (Spec.rejected i
      { code := .validation, kind := kindCode i.kind, field := .sa, lo := 0, hi := .upTo 0xF,
        observed := i.access.sa } s)) ∧
    (i.access.sa ≤ 0xF → ∀ t, exec i s = .next t → t.status.field = .sa → t.status = s.status)

/-- 40_transaction.md R95: a register address above 2^address_width − 1 is rejected; for RegZeroWrite the address is
not looked at: any other one gives the same outcome, but for what `REQ` records. -/
def Obligations.RegisterAddressAboveItsWidthIsRejected : Prop :=
  ∀ (s : State) (i : Instr), s.phase = .idle → i.access.sa ≤ 0xF →
    (i.kind ≠ .regZeroWrite → Spec.greatestAddress i.kind < i.access.regAddr →
      exec i s = .next (Spec.rejected i
        { code := .validation, kind := kindCode i.kind, field := .regAddr, lo := 0,
          hi := .upTo (Spec.greatestAddress i.kind), observed := i.access.regAddr } s)) ∧
    (Spec.addressOk i → ∀ t, exec i s = .next t → t.status.field = .regAddr → t.status = s.status) ∧
    (∀ (a : RegisterAccess) (x : Nat) (t : State), exec (.regZeroWrite a) s = .next t →
      exec (.regZeroWrite { a with regAddr := x }) s =
        .next { t with req := encodeRequest (.regZeroWrite { a with regAddr := x }) })

/-- 40_transaction.md R96: with slave and register address in range, a byte count below 1 or above the kind's greatest
is rejected; for a write the count observed is the payload length. -/
def Obligations.ByteCountOutOfRangeIsRejected : Prop :=
  ∀ (s : State) (i : Instr), s.phase = .idle → i.access.sa ≤ 0xF → Spec.addressOk i →
    (¬ Spec.countOk i → exec i s = .next (Spec.rejected i
      { code := .validation, kind := kindCode i.kind, field := .byteCount, lo := 1,
        hi := .upTo (Spec.greatestCount i.kind), observed := Spec.count i } s)) ∧
    (Spec.countOk i → ∀ t, exec i s = .next t → t.status.field = .byteCount → t.status = s.status)

/-- 40_transaction.md R97: RegZeroWrite with a payload byte above 0x7F is rejected, not truncated. The check is the
spec's own decision D8. -/
def Obligations.RegZeroWritePayloadAbove7FIsRejected : Prop :=
  ∀ (s : State) (a : RegisterAccess) (d : Byte), s.phase = .idle → a.sa ≤ 0xF → a.payload = [d] → 0x7F < d.toNat →
    exec (.regZeroWrite a) s = .next (Spec.rejected (.regZeroWrite a)
      { code := .validation, kind := 0, field := .payload, lo := 0, hi := .upTo 0x7F, observed := d.toNat } s)

/-- The validator accepts exactly the operands in range, for every kind and configuration: then, and only then, the
request is in progress after the step (40_transaction.md R93 to R97). -/
def Obligations.AcceptedExactlyWhenInRange : Prop :=
  ∀ (s : State) (i : Instr), s.phase = .idle →
    ((i.access.sa ≤ 0xF ∧ Spec.addressOk i ∧ Spec.countOk i ∧ Spec.reg0Ok i) ↔
      ∃ t, exec i s = .next t ∧ t.phase = if Spec.writes i.kind then .waitTx else .waitCap)

/-- 40_transaction.md R98: when the validator raises an error, the instruction writes `REQ` and `STATUS` and nothing
else: no frame, no collaborator call, `IDLE` kept. -/
def Obligations.ValidationFailureChangesOnlyStatus : Prop :=
  ∀ (s : State) (i : Instr) (e : FramerError), s.phase = .idle → validate i.kind i.access = .error e →
    exec i s = .next (Spec.rejected i (errorStatus (kindCode i.kind) e) s) ∧
    (errorStatus (kindCode i.kind) e).code = .validation

/-- The frame of every instruction (20_memory.md R50): whatever it answers, `CFG`, `RDATA`, the batch, the moves to
come and the abandoned calls stand; `REQ` is the request; `STATUS` changes only where the request is rejected, `FRAME`
and the calls only where it is accepted. There is no memory and no other register (R20, R40). -/
def Obligations.InstructionsLeaveTheRestUnchanged : Prop :=
  ∀ (s t : State) (i : Instr), exec i s = .next t →
    t.cfg = s.cfg ∧ t.rdata = s.rdata ∧ t.batch = s.batch ∧ t.inputs = s.inputs ∧ t.abandoned = s.abandoned ∧
    t.req = encodeRequest i ∧ t.reqValid = true ∧
    (t.phase = .idle → t.frame = s.frame ∧ t.calls = s.calls) ∧
    (t.phase ≠ .idle → t.status = s.status ∧ t.calls = s.calls ++ [Spec.call i t.frame])

/-- In `IDLE` every instruction completes: it is accepted or rejected (60_exceptions.md R223: nothing is refused there
on any other ground). Outside `IDLE` it has no step (10_state.md R23); that this is the refusal `notIdle` is the model's
choice (log 16). -/
def Obligations.EveryInstructionRunsInIdleOnly : Prop :=
  ∀ (s : State) (i : Instr),
    (s.phase = .idle → ∃ t, exec i s = .next t ∧ t.phase ≠ .faulted) ∧
    (s.phase ≠ .idle → exec i s = .refused .notIdle)

/-- 30_encoding.md R79, 40_transaction.md R92: a write does not look at the byte count and a read does not look at the
payload: any other one gives the same outcome, but for what `REQ` records. That they are ignored is the spec's decision
D12. -/
def Obligations.IgnoredOperandsChangeNothing : Prop :=
  ∀ (s t : State) (i : Instr) (n : Nat) (p : List Byte), exec i s = .next t →
    let j := Instr.make i.kind
      (if Spec.writes i.kind then { i.access with byteCount := n } else { i.access with payload := p })
    exec j s = .next { t with req := encodeRequest j }

/-- 10_state.md R31: what a request does depends on the request and `CFG` alone: in two states of `IDLE` with the same
`CFG`, whatever earlier transactions left in them, it is accepted in both with the same frame and call, or rejected in
both with the same `STATUS`. The rule is marked derived. -/
def Obligations.EarlierTransactionsDoNotInfluenceARequest : Prop :=
  ∀ (s u : State) (i : Instr), s.phase = .idle → u.phase = .idle → s.cfg = u.cfg →
    ∃ t v, exec i s = .next t ∧ exec i u = .next v ∧ t.phase = v.phase ∧ t.req = v.req ∧
      (t.phase = .idle → t.status = v.status) ∧
      (t.phase ≠ .idle → t.frame = v.frame ∧ t.calls.getLast? = v.calls.getLast? ∧
        t.calls.length = s.calls.length + 1 ∧ v.calls.length = u.calls.length + 1)

/-! ### Properties of frames -/

/-- 30_encoding.md R68, R70 to R73, R75, R76: the frame of RegWrite and of each extended kind, field by field, for all
operands in range and every legal `CFG`. The extended formats rest on the spec's own decisions D7 (the slave address is
outside the parity group), D9 (`NONE`, or a length of at least 162) and D10 (the high-rate frames). -/
def Obligations.FramesFollowTheirFormats : Prop :=
  ∀ (a : RegisterAccess) (c : Cfg), a.sa ≤ 0xF → cfgLegal c = true →
    (∀ d, a.regAddr ≤ 0x1F → a.payload = [d] →
      buildFrame .regWrite a c = .ok
        (Spec.field 4 a.sa ++ [false, true, false] ++ Spec.field 5 a.regAddr ++
          Spec.parity (Spec.field 4 a.sa ++ [false, true, false] ++ Spec.field 5 a.regAddr) ++
          Spec.field 8 d.toNat ++ Spec.parity (Spec.field 8 d.toNat))) ∧
    (a.regAddr ≤ 0xFF → 1 ≤ a.payload.length → a.payload.length ≤ 16 →
      buildFrame .extWrite a c = .ok
        (Spec.frameExtended false a.sa a.regAddr a.payload.length ++ Spec.bytes a.payload ++
          Spec.padding c.padExtWrite (18 + 9 * a.payload.length))) ∧
    (a.regAddr ≤ 0xFF → 1 ≤ a.byteCount → a.byteCount ≤ 16 →
      buildFrame .extRead a c = .ok (Spec.frameExtended true a.sa a.regAddr a.byteCount) ∧
      buildFrame .extReadHighRate a c = .ok (Spec.frameExtended true a.sa a.regAddr a.byteCount)) ∧
    (a.regAddr ≤ 0xFFFF → 1 ≤ a.payload.length → a.payload.length ≤ 8 →
      buildFrame .extLongWrite a c = .ok
        (Spec.frameLong false a.sa a.regAddr a.payload.length ++ Spec.bytes a.payload)) ∧
    (a.regAddr ≤ 0xFFFF → 1 ≤ a.byteCount → a.byteCount ≤ 8 →
      buildFrame .extLongRead a c = .ok (Spec.frameLong true a.sa a.regAddr a.byteCount) ∧
      buildFrame .extLongReadHighRate a c = .ok (Spec.frameLong true a.sa a.regAddr a.byteCount))

/-- 30_encoding.md R74: a built frame has the length that kind, byte count and configuration give. The table is marked
derived in the spec. -/
def Obligations.FrameLengthIsStaticallyKnown : Prop :=
  ∀ (i : Instr) (c : Cfg), cfgLegal c = true → validate i.kind i.access = .ok () →
    ∃ f, buildFrame i.kind i.access c = .ok f ∧ f.length = Spec.frameLength i c ∧ f.length ≤ fMax c

/-- 30_encoding.md R80 (a), (c) and R75: an ExtWrite frame and the ExtRead frame of the same slave, address and count
agree in bits 0 to 7 and 9 to 17, differ in bit 8 and differ in length; and for all operands and configurations a
high-rate read's frame is its plain read's. The spec marks (a) as derived and (c) as its decision D10. -/
def Obligations.ExtWriteAndExtReadFramesDifferInBit8AndLength : Prop :=
  (∀ (a b : RegisterAccess) (c : Cfg) (f g : Bits), a.sa = b.sa → a.regAddr = b.regAddr →
    a.payload.length = b.byteCount → validate .extWrite a = .ok () →
    buildFrame .extWrite a c = .ok f → buildFrame .extRead b c = .ok g →
    (∀ n, n < 18 → n ≠ 8 → f[n]? = g[n]?) ∧ (∃ x, f[8]? = some x ∧ g[8]? = some (!x)) ∧ f.length ≠ g.length) ∧
  (∀ (b : RegisterAccess) (c : Cfg),
    buildFrame .extReadHighRate b c = buildFrame .extRead b c ∧
    buildFrame .regReadHighRate b c = buildFrame .regRead b c ∧
    buildFrame .extLongReadHighRate b c = buildFrame .extLongRead b c)

/-- 30_encoding.md R83 on the data of the extended writes: each 9-bit group of the data frame, payload byte and its
parity bit, holds the byte most significant bit first and an odd number of ones. The rule is marked derived. -/
def Obligations.DataGroupsHaveOddWeight : Prop :=
  ∀ (k : Kind) (a : RegisterAccess) (c : Cfg) (f : Bits) (n : Nat) (d : Byte),
    k = .extWrite ∨ k = .extLongWrite → validate k a = .ok () → buildFrame k a c = .ok f → a.payload[n]? = some d →
    let g := (f.drop ((if k = .extWrite then 18 else 26) + 9 * n)).take 9
    g.take 8 = Spec.field 8 d.toNat ∧ g.length = 9 ∧ (g.filter (· = true)).length % 2 = 1

/-- 30_encoding.md R83 on the other parity groups: each command frame's group with its parity bit, the untransmitted
sub-opcode bit of R75 in front where the kind has one, and each address byte with its parity bit, hold an odd number of
ones, as does RegWrite's data byte. The rule is marked derived. -/
def Obligations.CommandAndAddressGroupsHaveOddWeight : Prop :=
  ∀ (k : Kind) (a : RegisterAccess) (c : Cfg) (f : Bits), validate k a = .ok () → buildFrame k a c = .ok f →
    match k with
    | .regZeroWrite => Spec.odd f
    | .regRead | .regReadHighRate => Spec.odd f
    | .regWrite => Spec.odd (f.take 13) ∧ Spec.odd (f.drop 13)
    | .extWrite => Spec.odd (false :: (f.drop 4).take 5) ∧ Spec.odd ((f.drop 9).take 9)
    | .extRead | .extReadHighRate => Spec.odd (true :: (f.drop 4).take 5) ∧ Spec.odd (f.drop 9)
    | .extLongWrite =>
      Spec.odd (false :: (f.drop 4).take 4) ∧ Spec.odd ((f.drop 8).take 9) ∧ Spec.odd ((f.drop 17).take 9)
    | .extLongRead | .extLongReadHighRate =>
      Spec.odd (true :: (f.drop 4).take 4) ∧ Spec.odd ((f.drop 8).take 9) ∧ Spec.odd (f.drop 17)

/-! ### The end of a transaction -/

/-- 40_transaction.md R101: `DONE` in `WAIT_TX` ends the write with `OK`; nothing but `STATUS`, `PHASE` and the taken
move changes. The rule is the spec's decision D13, D25. That `REQ` can be read in `WAIT_TX` in every state is log 4. -/
def Obligations.WriteEndsWithOk : Prop :=
  ∀ (s : State) (rest : List Event), s.phase = .waitTx → s.inputs = .answer .done :: rest →
    step s = .next { s with
      inputs := rest, phase := .idle
      status := { code := .ok, kind := s.req.kind, field := .none, lo := 0, hi := .upTo 0, observed := 0 } }

/-- 44_capture.md R170, R173: a capture in `WAIT_CAP` of at least n bytes ends the read with `OK` and the first n bytes
in `RDATA`, in order and unchanged; a shorter one ends it with CaptureShortfallError, `RDATA` unchanged. For each of
the six read kinds. That `REQ` can be read in `WAIT_CAP` in every state is log 4. -/
def Obligations.CaptureEndsTheRead : Prop :=
  ∀ (s : State) (i : Instr) (c : List Byte) (rest : List Event), s.phase = .waitCap →
    s.req = encodeRequest i → Spec.writes i.kind = false → s.inputs = .answer (.bytes c) :: rest →
    (i.access.byteCount ≤ c.length → step s = .next { s with
      inputs := rest, phase := .idle, rdata := c.take i.access.byteCount
      status := { code := .ok, kind := kindCode i.kind, field := .none, lo := 0, hi := .upTo 0, observed := 0 } }) ∧
    (c.length < i.access.byteCount → step s = .next { s with
      inputs := rest, phase := .idle
      status := { code := .captureShortfall, kind := kindCode i.kind, field := .capture, lo := i.access.byteCount,
                  hi := .unbounded, observed := c.length } })

/-- 60_exceptions.md R216: `FAIL` ends either direction with CollaboratorError and nothing else. The error is the
spec's decision D13. That `REQ` can be read while a call is outstanding in every state is log 4. -/
def Obligations.FailureEndsTheTransaction : Prop :=
  ∀ (s : State) (rest : List Event), s.phase.waiting = true → s.inputs = .answer .fail :: rest →
    step s = .next { s with
      inputs := rest, phase := .idle
      status := { code := .collaborator, kind := s.req.kind, field := .none, lo := 0, hi := .upTo 0,
                  observed := 0 } }

/-- 44_capture.md R175, the round trip: a read that was accepted and answered with at least n bytes ends with exactly
the first n of them in `RDATA`, whatever moves follow. The rule is marked derived. -/
def Obligations.ReadRoundTrip : Prop :=
  ∀ (s t : State) (i : Instr) (c : List Byte) (rest : List Event), Spec.writes i.kind = false →
    exec i { s with inputs := .answer (.bytes c) :: rest } = .next t → t.phase = .waitCap →
    i.access.byteCount ≤ c.length →
    ∃ u, step t = .next u ∧ u.rdata = c.take i.access.byteCount ∧ u.rdata.length = i.access.byteCount ∧
      u.status.code = .ok ∧ u.status.kind = kindCode i.kind ∧ u.phase = .idle ∧ u.frame = t.frame ∧
      u.req = t.req ∧ u.cfg = s.cfg

/-- The answers that 10_state.md R23 gives no transition: `DONE` in `WAIT_CAP`, a capture in `WAIT_TX`. That the
outcome is the refusal `answerMismatch` is the model's choice (log 9). -/
def Obligations.MismatchedAnswerHasNoStep : Prop :=
  ∀ (s : State) (rest : List Event) (c : List Byte),
    (s.phase = .waitCap → s.inputs = .answer .done :: rest → step s = .refused .answerMismatch) ∧
    (s.phase = .waitTx → s.inputs = .answer (.bytes c) :: rest → step s = .refused .answerMismatch)

/-! ### Rules over all steps -/

/-- 10_state.md R23, the whole table: a step that changes the phase took the row's event and has the row's effect and no
other. From `IDLE` a request was presented: to `WAIT_TX` a validated write and to `WAIT_CAP` a validated read, each with
`REQ`, the frame built and the one call, to `FAULTED` one of an unmapped code. A waiting phase was left by a matching
answer, with `STATUS` `OK`, `COLLABORATOR` or `CAPTURE_SHORTFALL` for `REQ.kind` and `RDATA` on a good capture alone.
`FAULTED` was left by nothing but a reset. A step that keeps the phase is, in `IDLE`, a rejected request, a
configuration write or a discarded answer; a reset; or a move of the batch sequencer that touches nothing of the framer.
The table holds decisions of the spec (D14, D25, D32). That the host's own request is taken with no batch running only,
and when a batch is started, is the model's choice (log 12), as is the count of abandoned calls (log 8). -/
def Obligations.PhaseChangesAsListed : Prop :=
  ∀ s t : State, step s = .next t →
    (t.phase ≠ s.phase → Spec.acceptedByStep s t ∨ Spec.faultedByStep s t ∨ Spec.endedByStep s t ∨
      Spec.resetByStep s t) ∧
    (t.phase = s.phase → Spec.keptByStep s t ∨ Spec.resetByStep s t)

/-- 10_state.md R27: `RDATA` is written only where a read ends with `OK`, with as many bytes as `REQ.byte_count` says;
a reset alone empties it besides. When it is written is the spec's decision D25. -/
def Obligations.RdataWrittenOnlyByAGoodRead : Prop :=
  ∀ s t : State, step s = .next t → t.rdata ≠ s.rdata →
    (s.phase = .waitCap ∧ t.phase = .idle ∧ t.status.code = .ok ∧ t.rdata.length = s.req.access.byteCount) ∨
    (Event.reset ∈ s.inputs ∧ t = { s with inputs := t.inputs }.hardReset)

/-- 40_transaction.md R103: no step re-sends a frame or starts a second call: a call is made only by a step that leaves
`IDLE`, and then exactly one, with the frame just built. -/
def Obligations.OneCallPerTransaction : Prop :=
  ∀ s t : State, step s = .next t → t.calls = s.calls ∨
    (s.phase = .idle ∧ t.phase.waiting = true ∧
      ∃ k a, t.req = { kind := kindCode k, access := a } ∧ buildFrame k a s.cfg = .ok t.frame ∧
        t.calls = s.calls ++ [callFor k a t.frame])

/-- 10_state.md R26, 70_reset_and_hazards.md R247 to R249: while a call is outstanding no step but a reset changes
`FRAME`, `REQ` or `CFG`. -/
def Obligations.NothingInFlightChanges : Prop :=
  ∀ s t : State, s.phase.waiting = true → step s = .next t →
    (t.frame = s.frame ∧ t.req = s.req ∧ t.reqValid = s.reqValid ∧ t.cfg = s.cfg) ∨
    (Event.reset ∈ s.inputs ∧ t = { s with inputs := t.inputs }.hardReset)

/-- 10_state.md R25: `CFG` changes only by a host's write of a legal value in `IDLE`, which changes nothing else of the
framer, or by a reset. -/
def Obligations.CfgChangesOnlyInIdle : Prop :=
  ∀ s t : State, step s = .next t → t.cfg ≠ s.cfg →
    (s.phase = .idle ∧ ∃ v, padLegal v = true ∧
      t = { s with inputs := t.inputs, cfg := { s.cfg with padExtWrite := v } }) ∨
    (s.phase = .idle ∧ ∃ v, opcLegal v = true ∧
      t = { s with inputs := t.inputs, cfg := { s.cfg with opcRegread := v } }) ∨
    (Event.reset ∈ s.inputs ∧ t = { s with inputs := t.inputs }.hardReset)

/-- 60_exceptions.md R213, 70_reset_and_hazards.md R240: `FAULTED` is left only by a reset, and meanwhile nothing of
the framer changes: no request is accepted, no answer taken. The rule is the spec's decision D14. -/
def Obligations.FaultedIsLeftOnlyByReset : Prop :=
  ∀ s t : State, s.phase = .faulted → step s = .next t →
    (t.phase = .faulted ∧ t = { s with inputs := t.inputs, batch := t.batch }) ∨
    (Event.reset ∈ s.inputs ∧ t = { s with inputs := t.inputs }.hardReset)

/-- The defensive errors are never raised (60_exceptions.md R215, R217): no step, from any state at all, leaves
`STATUS.code` 6 or 7 unless it was there before. -/
def Obligations.DefensiveErrorsAreUnreachable : Prop :=
  ∀ s t : State, step s = .next t → (t.status.code = .range ∨ t.status.code = .buildMisuse) →
    t.status = s.status

/-! ### Reset and the configuration port -/

/-- 10_state.md R32: the values after reset (the spec's decision D15). `REQ` is unspecified there and nothing is said
of it here but that reading it is a fault (log 4). -/
def Obligations.ResetValues : Prop :=
  State.reset.phase = .idle ∧
  State.reset.status = { code := .none, kind := 0, field := .none, lo := 0, hi := .upTo 0, observed := 0 } ∧
  State.reset.cfg = { padExtWrite := some 163, opcRegread := 0b011#3 } ∧
  State.reset.frame = [] ∧ State.reset.rdata = [] ∧
  ∀ f : Request → Result, withReq State.reset f = .fault .reqUnwritten

/-- 70_reset_and_hazards.md R240: a reset has a step in every phase and sets the framer's state to its reset values; an
outstanding call is abandoned. The rule is the spec's decision D15, D29. The rest is the model's choice: that the
abandoned calls are counted (log 8), that a reset drops no coming move (log 5), and that it leaves the batch sequencer
(log 12) and the record of the calls (log 13) alone. -/
def Obligations.ResetWorksInEveryPhase : Prop :=
  ∀ (s : State) (rest : List Event), s.inputs = .reset :: rest →
    ∃ t, step s = .next t ∧ t.phase = .idle ∧ t.status = Status.reset ∧ t.cfg = Cfg.reset ∧ t.frame = [] ∧
      t.rdata = [] ∧ t.reqValid = false ∧ t.calls = s.calls ∧ t.batch = s.batch ∧ t.inputs = rest ∧
      (s.phase.waiting = true → t.abandoned = s.abandoned + 1) ∧
      (s.phase.waiting = false → t.abandoned = s.abandoned)

/-- 70_reset_and_hazards.md R240: the late answer to a call that a reset abandoned finds `IDLE` and is discarded: it
changes nothing (the spec's decision D29, log 8). -/
def Obligations.LateAnswerIsDiscarded : Prop :=
  ∀ (s : State) (a : Answer) (rest : List Event), s.phase = .idle → 0 < s.abandoned → s.inputs = .answer a :: rest →
    step s = .next { s with inputs := rest, abandoned := s.abandoned - 1 }

/-- 10_state.md R25: in `IDLE` the host's write of a legal value is done and changes nothing else, and a write of an
illegal one has no step. That the latter is a refusal by name is log 9. -/
def Obligations.ConfigurationWrites : Prop :=
  ∀ (s : State) (rest : List Event) (l : Nat) (v : BitVec 3), s.phase = .idle →
    (s.inputs = .writePad none :: rest →
      step s = .next { s with inputs := rest, cfg := { s.cfg with padExtWrite := none } }) ∧
    (s.inputs = .writePad (some l) :: rest → 162 ≤ l →
      step s = .next { s with inputs := rest, cfg := { s.cfg with padExtWrite := some l } }) ∧
    (s.inputs = .writePad (some l) :: rest → l < 162 → step s = .refused .illegalPadLength) ∧
    (s.inputs = .writeOpc v :: rest → v ≠ 0b010#3 →
      step s = .next { s with inputs := rest, cfg := { s.cfg with opcRegread := v } }) ∧
    (s.inputs = .writeOpc v :: rest → v = 0b010#3 → step s = .refused .illegalReadOpcode)

/-! ### The invariant -/

/-- The invariant holds after reset. -/
def Obligations.ResetMeetsTheInvariant : Prop := Inv State.reset

/-- The invariant is kept by every step from every state that meets it. Its clause that the framer is in `IDLE` between
two requests of a batch rests on log 12 (the host presents nothing of its own while a batch runs), its clause on the
calls made on log 8 and log 13; those are the model's choices. -/
def Obligations.StepKeepsTheInvariant : Prop := ∀ s t : State, Inv s → step s = .next t → Inv t

/-- From a state that meets the invariant no step faults, and none stops for a reason that only a broken state has:
`REQ` is never read unwritten (10_state.md R32), `decode_capture` never gets another kind than a read (44_capture.md
R176), no instruction is executed outside `IDLE`, and every instruction has a meaning. -/
def Obligations.InvariantRulesOutFaults : Prop :=
  ∀ s : State, Inv s → (∀ f, step s ≠ .fault f) ∧ step s ≠ .refused .captureOfNonRead ∧
    step s ≠ .refused .notIdle ∧ ∀ m, step s ≠ .refused (.notModelled m)

/-! ### Batches and systems -/

/-- 45_batch.md R190, R191: in `IDLE` the sequencer's move presents the write at its position while one is left, then
the read at its position, and with none left it completes, in whatever phase, with the results gathered. -/
def Obligations.BatchPresentsWritesThenReads : Prop :=
  ∀ (s : State) (b : BatchRun) (rest : List Event) (q : Request), s.batch = .running b → b.performing = false →
    defensive s = false → s.inputs = .batchMove :: rest →
    (s.phase = .idle → b.writes[b.i]? = some q →
      step s = presentRequest q { s with inputs := rest, batch := .running { b with performing := true } }) ∧
    (s.phase = .idle → b.writes.length ≤ b.i → b.reads[b.j]? = some q →
      step s = presentRequest q { s with inputs := rest, batch := .running { b with performing := true } }) ∧
    (b.writes.length ≤ b.i → b.reads.length ≤ b.j →
      step s = .next { s with inputs := rest, batch := .completed b.results })

/-- 45_batch.md R190, R192, R193: when the performed request has ended, the sequencer stops the batch with its `STATUS`
if the code is not `OK`, and otherwise goes on, with the read's `RDATA` as its result. Stopping without partial results
is the spec's decision D16. -/
def Obligations.BatchStopsAtTheFirstError : Prop :=
  ∀ (s : State) (b : BatchRun) (rest : List Event), s.batch = .running b → b.performing = true →
    s.phase = .idle ∨ (s.phase = .faulted ∧ s.status.code = .unsupportedCommand) → s.inputs = .batchMove :: rest →
    (s.status.code ≠ .ok → step s = .next { s with inputs := rest, batch := .aborted s.status }) ∧
    (s.status.code = .ok → b.i < b.writes.length →
      step s = .next { s with inputs := rest, batch := .running { b with i := b.i + 1, performing := false } }) ∧
    (s.status.code = .ok → b.writes.length ≤ b.i →
      step s = .next { s with
        inputs := rest
        batch := .running { b with j := b.j + 1, results := b.results ++ [s.rdata], performing := false } })

/-- 45_batch.md R194: a batch with a mapped read kind among its writes, or a mapped write kind among its reads, is
refused as a whole; any other is started at its first element, in whatever phase (log 12). The refusal's form is log 9,
the rule is the spec's decision D16. -/
def Obligations.MalformedBatchIsRefused : Prop :=
  ∀ (s : State) (ws rs : List Request) (rest : List Event), defensive s = false → s.batch.isRunning = false →
    s.inputs = .startBatch ws rs :: rest →
    ((∃ r ∈ ws, ∃ i, decodeRequest r = .ok i ∧ Spec.writes i.kind = false) ∨
      (∃ r ∈ rs, ∃ i, decodeRequest r = .ok i ∧ Spec.writes i.kind = true) →
      step s = .refused .malformedBatch) ∧
    ((∀ r ∈ ws, ∀ i, decodeRequest r = .ok i → Spec.writes i.kind = true) →
      (∀ r ∈ rs, ∀ i, decodeRequest r = .ok i → Spec.writes i.kind = false) →
      step s = .next { s with
        inputs := rest
        batch := .running { writes := ws, reads := rs, i := 0, j := 0, results := [], performing := false } })

/-- 45_batch.md R190, R191, R193, a whole batch: from `IDLE`, with legal configuration, a batch of any writes and reads
with operands in range, whose writes are answered `DONE` and whose reads are answered with enough bytes, runs to
completion; its frames reach the collaborator in exactly the order of the writes, then of the reads, one call each; its
results are, read by read, the first byte-count bytes captured. -/
def Obligations.BatchRunsInOrderToCompletion : Prop :=
  ∀ (s : State) (ws rs : List Instr) (caps : List (List Byte)),
    s.phase = .idle → s.batch.isRunning = false → cfgLegal s.cfg = true →
    (∀ i ∈ ws, Spec.writes i.kind = true ∧ validate i.kind i.access = .ok ()) →
    (∀ i ∈ rs, Spec.writes i.kind = false ∧ validate i.kind i.access = .ok ()) →
    List.Forall₂ (fun i c => i.access.byteCount ≤ c.length) rs caps →
    s.inputs = .startBatch (ws.map encodeRequest) (rs.map encodeRequest) ::
      (Spec.writeMoves ws.length ++ Spec.readMoves caps ++ [.batchMove]) →
    ∃ (t : State) (frames : List Bits),
      Host.Core.run Sys2Proof.core (3 * ws.length + 3 * rs.length + 2) s = .next t ∧
      t.batch = .completed (List.zipWith (fun i c => c.take i.access.byteCount) rs caps) ∧
      List.Forall₂ (fun i f => buildFrame i.kind i.access s.cfg = .ok f) (ws ++ rs) frames ∧
      t.calls = s.calls ++ List.zipWith Spec.call (ws ++ rs) frames ∧
      t.phase = .idle ∧ t.cfg = s.cfg ∧ t.inputs = []

/-- 20_memory.md R54, 60_exceptions.md R226: instances share nothing: a step of one is its own machine's step and
leaves every other instance as it was. Independence is the spec's decision D28. -/
def Obligations.InstancesAreIndependent : Prop :=
  ∀ (k : Nat) (ss ts : List State), systemStep k ss = .next ts →
    ts.length = ss.length ∧ (∀ j, j ≠ k → ts[j]? = ss[j]?) ∧
    ∃ s t, ss[k]? = some s ∧ ts[k]? = some t ∧ step s = .next t

/-- 20_memory.md R53, 92_eei_decisions.md D32: the host's requests, configuration writes and batches are taken in the
order in which they stand in the coming moves: a step takes the first of them, or none of them, and drops none. A
request or a configuration write is taken in `IDLE` alone (R244, R25), so that transactions are performed in the order
presented. That configuration writes keep their place among the requests is the model's choice (log 5); so is that a
call is the host's own with no batch running or else the batch's (log 12). -/
def Obligations.HostMovesAreTakenInOrder : Prop :=
  ∀ s t : State, step s = .next t →
    ∃ e, TakenFrom s.inputs e t.inputs ∧
      s.inputs.filter Event.inHostOrder =
        (if e.inHostOrder then [e] else []) ++ t.inputs.filter Event.inHostOrder ∧
      ((∃ r, e = .present r) ∨ (∃ v, e = .writePad v) ∨ (∃ v, e = .writeOpc v) →
        e.inHostOrder = true ∧ s.phase = .idle) ∧
      ((∃ ws rs, e = .startBatch ws rs) → e.inHostOrder = true ∧ s.batch.isRunning = false) ∧
      (t.calls ≠ s.calls → ∃ r, Presented s t.inputs t.batch r ∧ t.req = r ∧ (e = .present r ∨ e = .batchMove))

/-- 45_batch.md R194, R190: a batch with both lists empty performs no transaction and returns COMPLETED([]), in every
phase, `FAULTED` included; nothing of the framer changes. The spec marks the rule as derived; that its start and its
end are two moves of the host is log 12. -/
def Obligations.EmptyBatchCompletesInEveryPhase : Prop :=
  ∀ (s : State) (rest : List Event), defensive s = false → s.batch.isRunning = false →
    s.inputs = .startBatch [] [] :: .batchMove :: rest →
    Host.Core.run Sys2Proof.core 2 s = .next { s with inputs := rest, batch := .completed [] }

/-- 10_state.md R32, 70_reset_and_hazards.md R243: outside a transaction `REQ` is not read: in `IDLE` and in `FAULTED` a
step does the same whatever `REQ` holds, and either leaves it as it was or writes it without looking at it. A read there
before a request was accepted is the fault `reqUnwritten`, and no step from any state whatever has it: an answer, which
needs `REQ`, is taken in `WAIT_TX` and `WAIT_CAP` alone, where a request was accepted (log 4). The reset values of R32
are the spec's decision D15. -/
def Obligations.ReqIsNotReadBeforeARequestIsAccepted : Prop :=
  (∀ s : State, step s ≠ .fault .reqUnwritten) ∧
  (∀ (s t : State) (q : Request), s.phase.waiting = false → step s = .next t →
    (t.req = s.req ∧ step { s with req := q } = .next { t with req := q }) ∨
    step { s with req := q } = .next t) ∧
  (∀ (s : State) (q : Request), s.phase.waiting = false → (∀ t, step s ≠ .next t) →
    step { s with req := q } = step s) ∧
  (∀ (s : State) (f : Request → Result), s.phase.waiting = false → s.reqValid = false →
    withReq s f = .fault .reqUnwritten)
end

