-- ==== Sys2Proof/Laws/Decode.lean ====
section
/-! SUPPORT. Laws/Decode.lean: kind codes and request records; the bytes of the request image. -/

namespace Sys2Proof

@[simp] theorem kindOfCode_kindCode (k : Kind) : kindOfCode (kindCode k) = some k := by cases k <;> rfl

theorem kindCode_of_kindOfCode : ∀ (c : BitVec 4) (k : Kind), kindOfCode c = some k → kindCode k = c := by decide

theorem kindOfCode_eq_none : ∀ c : BitVec 4, kindOfCode c = none ↔ 10 ≤ c.toNat := by decide

theorem kindCode_le (k : Kind) : (kindCode k).toNat ≤ 9 := by cases k <;> decide

@[simp] theorem make_kind (k : Kind) (a : RegisterAccess) : (Instr.make k a).kind = k := by cases k <;> rfl

@[simp] theorem make_access (k : Kind) (a : RegisterAccess) : (Instr.make k a).access = a := by cases k <;> rfl

@[simp] theorem make_kind_access (i : Instr) : Instr.make i.kind i.access = i := by cases i <;> rfl

@[simp] theorem encodeRequest_kind (i : Instr) : (encodeRequest i).kind = kindCode i.kind := rfl

@[simp] theorem encodeRequest_access (i : Instr) : (encodeRequest i).access = i.access := rfl

/-- Reading back the request record of an instruction. -/
@[simp] theorem decodeRequest_encodeRequest (i : Instr) : decodeRequest (encodeRequest i) = .ok i := by
  simp [decodeRequest]

/-- A request record that decodes is the record of its instruction. -/
theorem encodeRequest_of_decodeRequest {r : Request} {i : Instr} (h : decodeRequest r = .ok i) :
    encodeRequest i = r := by
  unfold decodeRequest at h
  split at h
  · rename_i k hk
    cases h
    have := kindCode_of_kindOfCode _ _ hk
    cases r; simp_all [encodeRequest]
  · cases h

theorem decodeRequest_error {r : Request} {e : DecodeError} (h : decodeRequest r = .error e) :
    e = .unmappedKind r.kind ∧ 10 ≤ r.kind.toNat := by
  unfold decodeRequest at h
  split at h
  · cases h
  · cases h; exact ⟨rfl, (kindOfCode_eq_none _).mp ‹_›⟩

theorem decodeRequest_unmapped {r : Request} (h : 10 ≤ r.kind.toNat) :
    decodeRequest r = .error (.unmappedKind r.kind) := by
  simp [decodeRequest, (kindOfCode_eq_none _).mpr h]

@[simp] theorem byteOf_toNat (k v : Nat) : (byteOf k v).toNat = v / 256 ^ k % 256 := by
  simp [byteOf]

end Sys2Proof
end

