-- ==== Sys2Proof/Laws/Operands.lean ====
section
/-! SUPPORT. Laws/Operands.lean: what the validator answers. -/

namespace Sys2Proof.Machine

open Sys2Proof

theorem checkSa_eq_ok (sa : Nat) : checkSa sa = .ok () ↔ sa ≤ 0xF := by
  unfold checkSa; split <;> simp <;> omega

theorem checkRegAddr_eq_ok (k : Kind) (addr : Nat) :
    checkRegAddr k addr = .ok () ↔ k = .regZeroWrite ∨ addr ≤ addrMax k := by
  cases k <;> simp [checkRegAddr]

theorem checkByteCount_eq_ok (k : Kind) (bc : Nat) :
    checkByteCount k bc = .ok () ↔ (desc k).bcLo ≤ bc ∧ bc ≤ (desc k).bcHi := by
  unfold checkByteCount; split <;> simp <;> omega

theorem checkReg0Payload_eq_ok (k : Kind) (a : RegisterAccess) :
    checkReg0Payload k a = .ok () ↔ (k = .regZeroWrite → firstPayload a ≤ 0x7F) := by
  cases k <;> simp [checkReg0Payload]

/-- The validator passes exactly when each of its four checks does (R93). -/
theorem validate_eq_ok (k : Kind) (a : RegisterAccess) :
    validate k a = .ok () ↔ a.sa ≤ 0xF ∧ (k = .regZeroWrite ∨ a.regAddr ≤ addrMax k) ∧
      ((desc k).bcLo ≤ byteCountOf k a ∧ byteCountOf k a ≤ (desc k).bcHi) ∧
      (k = .regZeroWrite → firstPayload a ≤ 0x7F) := by
  rw [← checkSa_eq_ok, ← checkRegAddr_eq_ok, ← checkByteCount_eq_ok, ← checkReg0Payload_eq_ok]
  unfold validate
  cases checkSa a.sa <;> cases checkRegAddr k a.regAddr <;> cases checkByteCount k (byteCountOf k a) <;> simp

theorem checkSa_eq_error {sa : Nat} {e : FramerError} (h : checkSa sa = .error e) :
    0xF < sa ∧ e = .validation .sa 0 0xF sa := by
  unfold checkSa at h; split at h <;> cases h; exact ⟨‹_›, rfl⟩

theorem checkRegAddr_eq_error {k : Kind} {addr : Nat} {e : FramerError} (h : checkRegAddr k addr = .error e) :
    k ≠ .regZeroWrite ∧ addrMax k < addr ∧ e = .validation .regAddr 0 (addrMax k) addr := by
  cases k <;> simp only [checkRegAddr] at h <;> (try split at h) <;> cases h <;> exact ⟨by simp, ‹_›, rfl⟩

theorem checkByteCount_eq_error {k : Kind} {bc : Nat} {e : FramerError} (h : checkByteCount k bc = .error e) :
    (bc < (desc k).bcLo ∨ (desc k).bcHi < bc) ∧ e = .validation .byteCount (desc k).bcLo (desc k).bcHi bc := by
  unfold checkByteCount at h; split at h <;> cases h; exact ⟨‹_›, rfl⟩

theorem checkReg0Payload_eq_error {k : Kind} {a : RegisterAccess} {e : FramerError}
    (h : checkReg0Payload k a = .error e) :
    k = .regZeroWrite ∧ 0x7F < firstPayload a ∧ e = .validation .payload 0 0x7F (firstPayload a) := by
  cases k <;> simp only [checkReg0Payload] at h <;> (try split at h) <;> cases h; exact ⟨rfl, ‹_›, rfl⟩

/-- The error the validator reports is that of the first check that fails (R93, 60_exceptions.md R218). -/
theorem validate_eq_error {k : Kind} {a : RegisterAccess} {e : FramerError} (h : validate k a = .error e) :
    (0xF < a.sa ∧ e = .validation .sa 0 0xF a.sa) ∨
    (checkSa a.sa = .ok () ∧ k ≠ .regZeroWrite ∧ addrMax k < a.regAddr ∧
      e = .validation .regAddr 0 (addrMax k) a.regAddr) ∨
    (checkSa a.sa = .ok () ∧ checkRegAddr k a.regAddr = .ok () ∧
      (byteCountOf k a < (desc k).bcLo ∨ (desc k).bcHi < byteCountOf k a) ∧
      e = .validation .byteCount (desc k).bcLo (desc k).bcHi (byteCountOf k a)) ∨
    (checkSa a.sa = .ok () ∧ checkRegAddr k a.regAddr = .ok () ∧ checkByteCount k (byteCountOf k a) = .ok () ∧
      k = .regZeroWrite ∧ 0x7F < firstPayload a ∧ e = .validation .payload 0 0x7F (firstPayload a)) := by
  unfold validate at h
  split at h
  · cases h; exact .inl (checkSa_eq_error ‹_›)
  · split at h
    · cases h; exact .inr (.inl ⟨‹_›, checkRegAddr_eq_error ‹_›⟩)
    · split at h
      · cases h; exact .inr (.inr (.inl ⟨‹_›, ‹_›, checkByteCount_eq_error ‹_›⟩))
      · exact .inr (.inr (.inr ⟨‹_›, ‹_›, ‹_›, checkReg0Payload_eq_error h⟩))

/-- Every error of the validator is a ValidationError (R93). -/
theorem validate_error (k : Kind) (a : RegisterAccess) (e : FramerError) (h : validate k a = .error e) :
    ∃ f lo hi obs, e = .validation f lo hi obs := by
  rcases validate_eq_error h with ⟨-, rfl⟩ | ⟨-, -, -, rfl⟩ | ⟨-, -, -, rfl⟩ | ⟨-, -, -, -, -, rfl⟩ <;>
    exact ⟨_, _, _, _, rfl⟩

end Sys2Proof.Machine
end

