-- ==== Sys2Proof/Laws/Primitives.lean ====
section
/-! SUPPORT. Laws/Primitives.lean: what the bit and parity primitives answer. -/

namespace Sys2Proof.Machine

open Sys2Proof

@[simp] theorem msbFirst_length (w v : Nat) : (msbFirst w v).length = w := by
  induction w with
  | zero => rfl
  | succ w ih => simp [msbFirst, ih]

/-- Bit `i` of a field of width `w` is bit `w - 1 - i` of the value. -/
theorem msbFirst_getElem? (w v i : Nat) (h : i < w) : (msbFirst w v)[i]? = some (v.testBit (w - 1 - i)) := by
  induction w generalizing i with
  | zero => omega
  | succ w ih =>
    cases i with
    | zero => simp [msbFirst]
    | succ i =>
      have hw : w + 1 - 1 - (i + 1) = w - 1 - i := by omega
      rw [msbFirst, List.getElem?_cons_succ, ih i (by omega), hw]

theorem toBits_ok (f : StatusField) (v w : Nat) (h : v < 2 ^ w) : toBits f v w = .ok (msbFirst w v) := by
  simp [toBits, Nat.not_le.mpr h]

theorem toBits_error (f : StatusField) (v w : Nat) (h : 2 ^ w ≤ v) :
    toBits f v w = .error (.range f (2 ^ w - 1) v) := by
  simp [toBits, h]

@[simp] theorem popcount_append (a b : Bits) : popcount (a ++ b) = popcount a + popcount b := List.count_append ..

@[simp] theorem parityBit_length (g : Bits) : (parityBit g).length = 1 := rfl

/-- A group and its parity bit hold an odd number of ones (30_encoding.md R83). -/
theorem popcount_parityBit_odd (g : Bits) : popcount (g ++ parityBit g) % 2 = 1 := by
  rw [popcount_append]
  have h1 : popcount (parityBit g) = if popcount g % 2 = 0 then 1 else 0 := by
    by_cases h : popcount g % 2 = 0 <;> simp only [parityBit, oddParity, h] <;> rfl
  rw [h1]; split <;> omega

@[simp] theorem byte9_length (b : Byte) : (byte9 b).length = 9 := by simp [byte9]

@[simp] theorem dataFrame_length (p : List Byte) : (dataFrame p).length = 9 * p.length := by
  induction p with
  | nil => rfl
  | cons b p ih => simp only [dataFrame, List.flatMap_cons, List.length_append] at *; simp [ih]; omega

theorem dataFrame_cons (b : Byte) (p : List Byte) : dataFrame (b :: p) = byte9 b ++ dataFrame p := rfl

@[simp] theorem zeros_length (n : Nat) : (zeros n).length = n := List.length_replicate

theorem addrByte9_ok (v : Nat) (h : v < 256) :
    addrByte9 v = .ok (msbFirst 8 v ++ parityBit (msbFirst 8 v)) := by
  rw [addrByte9, toBits_ok _ _ _ (by omega)]; rfl

end Sys2Proof.Machine
end

