-- ==== Sys2Proof/Laws/Formats.lean ====
section
/-! SUPPORT. Laws/Formats.lean: the frame each format builds when its operands fit, and that a validated request's
frame is always built (60_exceptions.md R215). -/

namespace Sys2Proof.Machine

open Sys2Proof

theorem formatR0_ok (sa d : Nat) (hs : sa ≤ 0xF) (hd : d ≤ 0x7F) :
    formatR0 sa d = .ok (msbFirst 4 sa ++ msbFirst 7 d ++ parityBit (msbFirst 4 sa ++ msbFirst 7 d)) := by
  simp only [formatR0, Config.saWidth, toBits_ok _ sa 4 (by omega), toBits_ok _ d 7 (by omega)]

theorem registerCommand_ok (sa addr : Nat) (o : Bits) (hs : sa ≤ 0xF) (ha : addr ≤ 0x1F) :
    registerCommand sa o addr =
      .ok (msbFirst 4 sa ++ o ++ msbFirst 5 addr ++ parityBit (msbFirst 4 sa ++ o ++ msbFirst 5 addr)) := by
  simp only [registerCommand, Config.saWidth, toBits_ok _ sa 4 (by omega), toBits_ok _ addr 5 (by omega)]

theorem extendedCommand_ok (sub : Bit) (w sa bc : Nat) (hs : sa ≤ 0xF) (hb : bc - 1 < 2 ^ w) :
    extendedCommand sub w sa bc =
      .ok (msbFirst 4 sa ++ msbFirst w (bc - 1) ++ parityBit (sub :: msbFirst w (bc - 1))) := by
  simp only [extendedCommand, Config.saWidth, toBits_ok _ sa 4 (by omega), toBits_ok _ (bc - 1) w hb]

theorem longAddress_ok (addr : Nat) (h : addr ≤ 0xFFFF) :
    longAddress addr = .ok (msbFirst 8 (addr / 256) ++ parityBit (msbFirst 8 (addr / 256)) ++
      (msbFirst 8 (addr % 256) ++ parityBit (msbFirst 8 (addr % 256)))) := by
  simp only [longAddress, addrByte9_ok (addr / 256) (by omega), addrByte9_ok (addr % 256) (by omega)]

/-- The 18 bits that open the frames of the extended kinds. -/
def extendedHead (sub : Bit) (sa addr bc : Nat) : Bits :=
  msbFirst 4 sa ++ msbFirst 4 (bc - 1) ++ parityBit (sub :: msbFirst 4 (bc - 1)) ++
    (msbFirst 8 addr ++ parityBit (msbFirst 8 addr))

/-- The 26 bits that open the frames of the extended-long kinds. -/
def longHead (sub : Bit) (sa addr bc : Nat) : Bits :=
  msbFirst 4 sa ++ msbFirst 3 (bc - 1) ++ parityBit (sub :: msbFirst 3 (bc - 1)) ++
    (msbFirst 8 (addr / 256) ++ parityBit (msbFirst 8 (addr / 256)) ++
      (msbFirst 8 (addr % 256) ++ parityBit (msbFirst 8 (addr % 256))))

@[simp] theorem extendedHead_length (sub : Bit) (sa addr bc : Nat) : (extendedHead sub sa addr bc).length = 18 := by
  simp [extendedHead]

@[simp] theorem longHead_length (sub : Bit) (sa addr bc : Nat) : (longHead sub sa addr bc).length = 26 := by
  simp [longHead]

theorem formatER_ok (sa addr bc : Nat) (hs : sa ≤ 0xF) (ha : addr ≤ 0xFF) (hb : bc ≤ 16) :
    formatER sa addr bc = .ok (extendedHead true sa addr bc) := by
  simp only [formatER, extendedCommand_ok true 4 sa bc hs (by omega), addrByte9_ok addr (by omega), withAddress,
    extendedHead]

theorem formatEW_ok (sa addr bc : Nat) (p : List Byte) (pad : Option Nat) (hs : sa ≤ 0xF) (ha : addr ≤ 0xFF)
    (hb : bc ≤ 16) :
    formatEW sa addr bc p pad = .ok (padTo pad (extendedHead false sa addr bc ++ dataFrame p)) := by
  simp only [formatEW, extendedCommand_ok false 4 sa bc hs (by omega), addrByte9_ok addr (by omega), withAddress,
    extendedHead]
  rfl

theorem formatLR_ok (sa addr bc : Nat) (hs : sa ≤ 0xF) (ha : addr ≤ 0xFFFF) (hb : bc ≤ 8) :
    formatLR sa addr bc = .ok (longHead true sa addr bc) := by
  simp only [formatLR, extendedCommand_ok true 3 sa bc hs (by omega), longAddress_ok addr ha, withAddress, longHead]

theorem formatLW_ok (sa addr bc : Nat) (p : List Byte) (hs : sa ≤ 0xF) (ha : addr ≤ 0xFFFF) (hb : bc ≤ 8) :
    formatLW sa addr bc p = .ok (longHead false sa addr bc ++ dataFrame p) := by
  simp only [formatLW, extendedCommand_ok false 3 sa bc hs (by omega), longAddress_ok addr ha, withAddress, longHead]
  rfl

/-- A validated request's frame is built, whatever the configuration (R100, R215). -/
theorem buildFrame_of_validate (k : Kind) (a : RegisterAccess) (c : Cfg) (h : validate k a = .ok ()) :
    ∃ f, buildFrame k a c = .ok f := by
  obtain ⟨hs, ha, ⟨-, hb⟩, hp⟩ := (validate_eq_ok k a).mp h
  cases k <;> simp [addrMax, desc] at ha hb hp
  · exact ⟨_, formatR0_ok _ _ hs hp⟩
  · simp only [buildFrame, frameRegWrite, formatRW, registerCommand_ok _ _ _ hs ha]; exact ⟨_, rfl⟩
  · exact ⟨_, registerCommand_ok _ _ _ hs ha⟩
  · exact ⟨_, registerCommand_ok _ _ _ hs ha⟩
  · exact ⟨_, formatEW_ok _ _ _ _ _ hs ha hb⟩
  · exact ⟨_, formatER_ok _ _ _ hs ha hb⟩
  · exact ⟨_, formatER_ok _ _ _ hs ha hb⟩
  · exact ⟨_, formatLW_ok _ _ _ _ hs ha hb⟩
  · exact ⟨_, formatLR_ok _ _ _ hs ha hb⟩
  · exact ⟨_, formatLR_ok _ _ _ hs ha hb⟩

end Sys2Proof.Machine
end

