-- ==== Sys2Proof/Laws/State.lean ====
section
/-! SUPPORT. Laws/State.lean: one lemma per field per update of the state. -/

namespace Sys2Proof.Machine

open Sys2Proof

@[simp] theorem State.latch_phase (s : State) (r : Request) : (s.latch r).phase = s.phase := rfl
@[simp] theorem State.latch_req (s : State) (r : Request) : (s.latch r).req = r := rfl
@[simp] theorem State.latch_reqValid (s : State) (r : Request) : (s.latch r).reqValid = true := rfl
@[simp] theorem State.latch_status (s : State) (r : Request) : (s.latch r).status = s.status := rfl
@[simp] theorem State.latch_cfg (s : State) (r : Request) : (s.latch r).cfg = s.cfg := rfl
@[simp] theorem State.latch_frame (s : State) (r : Request) : (s.latch r).frame = s.frame := rfl
@[simp] theorem State.latch_rdata (s : State) (r : Request) : (s.latch r).rdata = s.rdata := rfl
@[simp] theorem State.latch_calls (s : State) (r : Request) : (s.latch r).calls = s.calls := rfl
@[simp] theorem State.latch_abandoned (s : State) (r : Request) : (s.latch r).abandoned = s.abandoned := rfl
@[simp] theorem State.latch_batch (s : State) (r : Request) : (s.latch r).batch = s.batch := rfl
@[simp] theorem State.latch_inputs (s : State) (r : Request) : (s.latch r).inputs = s.inputs := rfl

@[simp] theorem State.loadFrame_phase (s : State) (f : Bits) : (s.loadFrame f).phase = s.phase := rfl
@[simp] theorem State.loadFrame_req (s : State) (f : Bits) : (s.loadFrame f).req = s.req := rfl
@[simp] theorem State.loadFrame_reqValid (s : State) (f : Bits) : (s.loadFrame f).reqValid = s.reqValid := rfl
@[simp] theorem State.loadFrame_status (s : State) (f : Bits) : (s.loadFrame f).status = s.status := rfl
@[simp] theorem State.loadFrame_cfg (s : State) (f : Bits) : (s.loadFrame f).cfg = s.cfg := rfl
@[simp] theorem State.loadFrame_frame (s : State) (f : Bits) : (s.loadFrame f).frame = f := rfl
@[simp] theorem State.loadFrame_rdata (s : State) (f : Bits) : (s.loadFrame f).rdata = s.rdata := rfl
@[simp] theorem State.loadFrame_calls (s : State) (f : Bits) : (s.loadFrame f).calls = s.calls := rfl
@[simp] theorem State.loadFrame_abandoned (s : State) (f : Bits) : (s.loadFrame f).abandoned = s.abandoned := rfl
@[simp] theorem State.loadFrame_batch (s : State) (f : Bits) : (s.loadFrame f).batch = s.batch := rfl
@[simp] theorem State.loadFrame_inputs (s : State) (f : Bits) : (s.loadFrame f).inputs = s.inputs := rfl

@[simp] theorem State.callOut_phase (s : State) (c : Call) (p : Phase) : (s.callOut c p).phase = p := rfl
@[simp] theorem State.callOut_req (s : State) (c : Call) (p : Phase) : (s.callOut c p).req = s.req := rfl
@[simp] theorem State.callOut_reqValid (s : State) (c : Call) (p : Phase) : (s.callOut c p).reqValid = s.reqValid := rfl
@[simp] theorem State.callOut_status (s : State) (c : Call) (p : Phase) : (s.callOut c p).status = s.status := rfl
@[simp] theorem State.callOut_cfg (s : State) (c : Call) (p : Phase) : (s.callOut c p).cfg = s.cfg := rfl
@[simp] theorem State.callOut_frame (s : State) (c : Call) (p : Phase) : (s.callOut c p).frame = s.frame := rfl
@[simp] theorem State.callOut_rdata (s : State) (c : Call) (p : Phase) : (s.callOut c p).rdata = s.rdata := rfl
@[simp] theorem State.callOut_calls (s : State) (c : Call) (p : Phase) : (s.callOut c p).calls = s.calls ++ [c] := rfl
@[simp] theorem State.callOut_abandoned (s : State) (c : Call) (p : Phase) : (s.callOut c p).abandoned = s.abandoned := rfl
@[simp] theorem State.callOut_batch (s : State) (c : Call) (p : Phase) : (s.callOut c p).batch = s.batch := rfl
@[simp] theorem State.callOut_inputs (s : State) (c : Call) (p : Phase) : (s.callOut c p).inputs = s.inputs := rfl

@[simp] theorem State.deliver_phase (s : State) (d : List Byte) : (s.deliver d).phase = s.phase := rfl
@[simp] theorem State.deliver_req (s : State) (d : List Byte) : (s.deliver d).req = s.req := rfl
@[simp] theorem State.deliver_reqValid (s : State) (d : List Byte) : (s.deliver d).reqValid = s.reqValid := rfl
@[simp] theorem State.deliver_status (s : State) (d : List Byte) : (s.deliver d).status = s.status := rfl
@[simp] theorem State.deliver_cfg (s : State) (d : List Byte) : (s.deliver d).cfg = s.cfg := rfl
@[simp] theorem State.deliver_frame (s : State) (d : List Byte) : (s.deliver d).frame = s.frame := rfl
@[simp] theorem State.deliver_rdata (s : State) (d : List Byte) : (s.deliver d).rdata = d := rfl
@[simp] theorem State.deliver_calls (s : State) (d : List Byte) : (s.deliver d).calls = s.calls := rfl
@[simp] theorem State.deliver_abandoned (s : State) (d : List Byte) : (s.deliver d).abandoned = s.abandoned := rfl
@[simp] theorem State.deliver_batch (s : State) (d : List Byte) : (s.deliver d).batch = s.batch := rfl
@[simp] theorem State.deliver_inputs (s : State) (d : List Byte) : (s.deliver d).inputs = s.inputs := rfl

@[simp] theorem State.finishOk_phase (s : State) (k : BitVec 4) : (s.finishOk k).phase = .idle := rfl
@[simp] theorem State.finishOk_req (s : State) (k : BitVec 4) : (s.finishOk k).req = s.req := rfl
@[simp] theorem State.finishOk_reqValid (s : State) (k : BitVec 4) : (s.finishOk k).reqValid = s.reqValid := rfl
@[simp] theorem State.finishOk_status (s : State) (k : BitVec 4) : (s.finishOk k).status = okStatus k := rfl
@[simp] theorem State.finishOk_cfg (s : State) (k : BitVec 4) : (s.finishOk k).cfg = s.cfg := rfl
@[simp] theorem State.finishOk_frame (s : State) (k : BitVec 4) : (s.finishOk k).frame = s.frame := rfl
@[simp] theorem State.finishOk_rdata (s : State) (k : BitVec 4) : (s.finishOk k).rdata = s.rdata := rfl
@[simp] theorem State.finishOk_calls (s : State) (k : BitVec 4) : (s.finishOk k).calls = s.calls := rfl
@[simp] theorem State.finishOk_abandoned (s : State) (k : BitVec 4) : (s.finishOk k).abandoned = s.abandoned := rfl
@[simp] theorem State.finishOk_batch (s : State) (k : BitVec 4) : (s.finishOk k).batch = s.batch := rfl
@[simp] theorem State.finishOk_inputs (s : State) (k : BitVec 4) : (s.finishOk k).inputs = s.inputs := rfl

@[simp] theorem State.takeError_phase (s : State) (k : BitVec 4) (e : FramerError) : (s.takeError k e).phase = errorPhase e := rfl
@[simp] theorem State.takeError_req (s : State) (k : BitVec 4) (e : FramerError) : (s.takeError k e).req = s.req := rfl
@[simp] theorem State.takeError_reqValid (s : State) (k : BitVec 4) (e : FramerError) : (s.takeError k e).reqValid = s.reqValid := rfl
@[simp] theorem State.takeError_status (s : State) (k : BitVec 4) (e : FramerError) : (s.takeError k e).status = errorStatus k e := rfl
@[simp] theorem State.takeError_cfg (s : State) (k : BitVec 4) (e : FramerError) : (s.takeError k e).cfg = s.cfg := rfl
@[simp] theorem State.takeError_frame (s : State) (k : BitVec 4) (e : FramerError) : (s.takeError k e).frame = s.frame := rfl
@[simp] theorem State.takeError_rdata (s : State) (k : BitVec 4) (e : FramerError) : (s.takeError k e).rdata = s.rdata := rfl
@[simp] theorem State.takeError_calls (s : State) (k : BitVec 4) (e : FramerError) : (s.takeError k e).calls = s.calls := rfl
@[simp] theorem State.takeError_abandoned (s : State) (k : BitVec 4) (e : FramerError) : (s.takeError k e).abandoned = s.abandoned := rfl
@[simp] theorem State.takeError_batch (s : State) (k : BitVec 4) (e : FramerError) : (s.takeError k e).batch = s.batch := rfl
@[simp] theorem State.takeError_inputs (s : State) (k : BitVec 4) (e : FramerError) : (s.takeError k e).inputs = s.inputs := rfl

@[simp] theorem State.hardReset_phase (s : State) : (s.hardReset).phase = .idle := rfl
@[simp] theorem State.hardReset_req (s : State) : (s.hardReset).req = Request.reset := rfl
@[simp] theorem State.hardReset_reqValid (s : State) : (s.hardReset).reqValid = false := rfl
@[simp] theorem State.hardReset_status (s : State) : (s.hardReset).status = Status.reset := rfl
@[simp] theorem State.hardReset_cfg (s : State) : (s.hardReset).cfg = Cfg.reset := rfl
@[simp] theorem State.hardReset_frame (s : State) : (s.hardReset).frame = [] := rfl
@[simp] theorem State.hardReset_rdata (s : State) : (s.hardReset).rdata = [] := rfl
@[simp] theorem State.hardReset_calls (s : State) : (s.hardReset).calls = s.calls := rfl
@[simp] theorem State.hardReset_abandoned (s : State) : (s.hardReset).abandoned = if s.phase.waiting then s.abandoned + 1 else s.abandoned := rfl
@[simp] theorem State.hardReset_batch (s : State) : (s.hardReset).batch = s.batch := rfl
@[simp] theorem State.hardReset_inputs (s : State) : (s.hardReset).inputs = s.inputs := rfl

end Sys2Proof.Machine
end

