-- ==== Sys2Proof/Laws/Ops.lean ====
section
/-! SUPPORT. Laws/Ops.lean: what the shared operations and the instructions can answer, said once. -/

namespace Sys2Proof.Machine

open Sys2Proof

/-- A hand-off is one call, in the phase of the kind's direction. -/
theorem handOff_eq (k : Kind) (a : RegisterAccess) (f : Bits) (s : State) :
    handOff k a f s = s.callOut (callFor k a f) (if (desc k).isWrite then .waitTx else .waitCap) := by
  unfold handOff transmit transmitAndCapture callFor
  split <;> rfl

/-- Every meaning is the shared transaction with the frame of `build_frame` (40_transaction.md R90, R100). -/
theorem exec_eq_accept (i : Instr) (s : State) :
    exec i s = accept i.kind i.access (buildFrame i.kind i.access s.cfg) s := by
  cases i <;> rfl

/-- Outside `IDLE` there is no step. -/
theorem exec_not_idle (i : Instr) (s : State) (h : s.phase ≠ .idle) : exec i s = .refused .notIdle := by
  rw [exec_eq_accept]; unfold accept; split <;> simp_all

/-- A rejected request writes `REQ` and takes the validator's error. -/
theorem exec_rejected (i : Instr) (s : State) (e : FramerError) (h : s.phase = .idle)
    (hv : validate i.kind i.access = .error e) :
    exec i s = .next ((s.latch (encodeRequest i)).takeError (kindCode i.kind) e) := by
  rw [exec_eq_accept]; simp only [accept, h, hv]; rfl

/-- An accepted request writes `REQ` and `FRAME` and makes its call. -/
theorem exec_accepted (i : Instr) (s : State) (f : Bits) (h : s.phase = .idle)
    (hv : validate i.kind i.access = .ok ()) (hf : buildFrame i.kind i.access s.cfg = .ok f) :
    exec i s = .next (((s.latch (encodeRequest i)).loadFrame f).callOut (callFor i.kind i.access f)
      (if (desc i.kind).isWrite then .waitTx else .waitCap)) := by
  rw [exec_eq_accept]; simp only [accept, h, hv, hf, buildChecked, handOff_eq, if_true]; rfl

/-- What an instruction can answer with a next state: rejected, or accepted with the frame `build_frame` gives. -/
theorem exec_cases {i : Instr} {s t : State} (h : exec i s = .next t) :
    s.phase = .idle ∧
    ((∃ e, validate i.kind i.access = .error e ∧
        t = (s.latch (encodeRequest i)).takeError (kindCode i.kind) e) ∨
     (∃ f, validate i.kind i.access = .ok () ∧ buildFrame i.kind i.access s.cfg = .ok f ∧
        t = ((s.latch (encodeRequest i)).loadFrame f).callOut (callFor i.kind i.access f)
          (if (desc i.kind).isWrite then .waitTx else .waitCap))) := by
  by_cases hp : s.phase = .idle
  · refine ⟨hp, ?_⟩
    cases hv : validate i.kind i.access with
    | error e =>
      rw [exec_rejected i s e hp hv] at h
      cases h; exact .inl ⟨e, rfl, rfl⟩
    | ok u =>
      obtain ⟨f, hf⟩ := buildFrame_of_validate i.kind i.access s.cfg hv
      rw [exec_accepted i s f hp hv hf] at h
      cases h; exact .inr ⟨f, rfl, hf, rfl⟩
  · rw [exec_not_idle i s hp] at h; cases h

/-- What accepting an unmapped code can answer with a next state (60_exceptions.md R213). -/
theorem acceptUnmapped_cases {r : Request} {s t : State} (h : acceptUnmapped r s = .next t) :
    s.phase = .idle ∧ t = (s.latch r).takeError r.kind (.unsupportedCommand r.kind) := by
  unfold acceptUnmapped at h
  split at h <;> cases h
  exact ⟨‹_›, rfl⟩

/-- While a transaction is in progress `REQ` can be read (10_state.md R23, R32). -/
theorem withReq_of_waiting {s : State} (h : s.phase.waiting = true) (f : Request → Result) :
    withReq s f = f s.req := by simp [withReq, State.requestAccepted, h]

/-- What reading `REQ` can answer with a next state. -/
theorem withReq_cases {s t : State} {f : Request → Result} (h : withReq s f = .next t) :
    s.requestAccepted = true ∧ f s.req = .next t := by
  unfold withReq at h
  split at h
  · exact ⟨‹_›, h⟩
  · cases h

/-- What the end of a read can answer with a next state (44_capture.md R170). -/
theorem endRead_cases {c : List Byte} {s t : State} (h : endRead c s = .next t) :
    ∃ k, readKind s.req = some k ∧
      ((byteCountOf k s.req.access ≤ c.length ∧
          t = (s.deliver (c.take (byteCountOf k s.req.access))).finishOk s.req.kind) ∨
       (c.length < byteCountOf k s.req.access ∧
          t = s.takeError s.req.kind (.captureShortfall (byteCountOf k s.req.access) c.length))) := by
  replace h := (withReq_cases h).2
  unfold decodeCapture at h
  split at h
  · cases h
  · rename_i k hk
    refine ⟨k, hk, ?_⟩
    by_cases hl : c.length < byteCountOf k s.req.access
    · simp only [hl, if_true] at h; cases h; exact .inr ⟨hl, rfl⟩
    · simp only [hl, if_false] at h; cases h; exact .inl ⟨by omega, rfl⟩

/-- What an answer can lead to (10_state.md R23, 70_reset_and_hazards.md R240). -/
theorem takeAnswer_cases {a : Answer} {s t : State} (h : takeAnswer a s = .next t) :
    (s.phase = .waitTx ∧ a = .done ∧ t = s.finishOk s.req.kind) ∨
    (s.phase.waiting = true ∧ a = .fail ∧ t = s.takeError s.req.kind .collaborator) ∨
    (s.phase = .waitCap ∧ ∃ c, a = .bytes c ∧ endRead c s = .next t) ∨
    (s.phase = .idle ∧ 0 < s.abandoned ∧ t = { s with abandoned := s.abandoned - 1 }) := by
  have hw : ∀ f : Request → State, withReq s (fun r => .next (f r)) = .next t → t = f s.req := fun f h => by
    cases (withReq_cases h).2; rfl
  unfold takeAnswer at h
  split at h
  · exact .inl ⟨‹_›, rfl, hw _ h⟩
  · exact .inr (.inl ⟨by simp [Phase.waiting, *], rfl, hw _ h⟩)
  · cases h
  · exact .inr (.inr (.inl ⟨‹_›, _, rfl, h⟩))
  · exact .inr (.inl ⟨by simp [Phase.waiting, *], rfl, hw _ h⟩)
  · cases h
  · split at h <;> cases h; exact .inr (.inr (.inr ⟨‹_›, ‹_›, rfl⟩))
  · cases h

/-- An answer never meets the fault of an unread `REQ`: it is taken while a transaction is in progress alone. -/
theorem takeAnswer_not_fault (a : Answer) (s : State) (f : Fault) : takeAnswer a s ≠ .fault f := by
  have hw : ∀ g : Request → Result, s.phase.waiting = true → (∀ r, g r ≠ .fault f) → withReq s g ≠ .fault f :=
    fun g h hg => by rw [withReq_of_waiting h]; exact hg _
  unfold takeAnswer
  split
  · exact hw _ (by simp [Phase.waiting, *]) (by simp)
  · exact hw _ (by simp [Phase.waiting, *]) (by simp)
  · simp
  · refine hw _ (by simp [Phase.waiting, *]) fun r => ?_
    split
    · simp
    · split <;> simp
  · exact hw _ (by simp [Phase.waiting, *]) (by simp)
  · simp
  · split <;> simp
  · simp

/-- What a write of `CFG.pad_ext_write` can answer with a next state (10_state.md R25). -/
theorem writePad_cases {v : Option Nat} {s t : State} (h : writePad v s = .next t) :
    s.phase = .idle ∧ padLegal v = true ∧ t = { s with cfg := { s.cfg with padExtWrite := v } } := by
  unfold writePad at h
  split at h
  · split at h <;> cases h; exact ⟨‹_›, ‹_›, rfl⟩
  · cases h

/-- What a write of `CFG.opc_regread` can answer with a next state (10_state.md R25). -/
theorem writeOpc_cases {v : BitVec 3} {s t : State} (h : writeOpc v s = .next t) :
    s.phase = .idle ∧ opcLegal v = true ∧ t = { s with cfg := { s.cfg with opcRegread := v } } := by
  unfold writeOpc at h
  split at h
  · split at h <;> cases h; exact ⟨‹_›, ‹_›, rfl⟩
  · cases h

end Sys2Proof.Machine
end

