-- ==== Sys2Proof/Laws/Events.lean ====
section
/-! SUPPORT. Laws/Events.lean: which move a step takes, and what a step can answer. -/

namespace Sys2Proof.Machine

open Sys2Proof

/-- The move picked is one of the coming moves and has a step; if it is of the host's order, no move of that order
stands before it. -/
theorem pickFrom_spec {s : State} {held : Bool} {es rest : List Event} {e : Event}
    (h : pickFrom s held es = some (e, rest)) :
    enabled s e = true ∧ ∃ before after, es = before ++ e :: after ∧ rest = before ++ after ∧
      (e.inHostOrder = true → held = false ∧ ∀ x ∈ before, x.inHostOrder = false) := by
  induction es generalizing rest held with
  | nil => cases h
  | cons e' es ih =>
    simp only [pickFrom] at h
    split at h
    · rename_i hc
      cases h
      simp only [Bool.and_eq_true, Bool.not_eq_true', Bool.and_eq_false_iff] at hc
      exact ⟨hc.1, [], es, rfl, rfl, fun ho => ⟨by simpa [ho] using hc.2, by simp⟩⟩
    · split at h <;> cases h
      rename_i hp
      obtain ⟨he, before, after, rfl, rfl, ho⟩ := ih hp
      refine ⟨he, e' :: before, after, rfl, rfl, fun h => ?_⟩
      obtain ⟨h1, h2⟩ := ho h
      simp only [Bool.or_eq_false_iff] at h1
      exact ⟨h1.1, List.forall_mem_cons.mpr ⟨h1.2, h2⟩⟩

/-- The move picked is one of the coming moves and has a step. -/
theorem pick_spec {s : State} {es rest : List Event} {e : Event} (h : pick s es = some (e, rest)) :
    TakenFrom es e rest ∧ enabled s e = true := by
  obtain ⟨he, before, after, h1, h2, -⟩ := pickFrom_spec h
  exact ⟨⟨before, after, h1, h2⟩, he⟩

/-- Picking a move keeps the host's order: it takes the first move of that order, or none of them. -/
theorem pick_keeps_order {s : State} {es rest : List Event} {e : Event} (h : pick s es = some (e, rest)) :
    es.filter Event.inHostOrder = (if e.inHostOrder then [e] else []) ++ rest.filter Event.inHostOrder := by
  obtain ⟨-, before, after, rfl, rfl, ho⟩ := pickFrom_spec h
  cases hb : e.inHostOrder with
  | false => simp [hb]
  | true =>
    have : before.filter Event.inHostOrder = [] := by simpa [List.filter_eq_nil_iff] using (ho hb).2
    simp [hb, this]

/-- A move taken is one of the coming moves. -/
theorem TakenFrom.mem {es rest : List Event} {e : Event} (h : TakenFrom es e rest) : e ∈ es := by
  obtain ⟨_, _, rfl, -⟩ := h; simp

/-- A move at the head that has a step is the one picked. -/
theorem pick_head {s : State} {e : Event} {es : List Event} (h : enabled s e = true) :
    pick s (e :: es) = some (e, es) := by simp [pick, pickFrom, h]

@[simp] theorem not_defensive_of_phase {s : State} (h : s.phase ≠ .faulted) : defensive s = false := by
  simp [defensive, h]

/-- A step whose first coming move has a step performs it, unless a defensive error stands. -/
theorem step_head {s : State} {e : Event} {rest : List Event} (hi : s.inputs = e :: rest)
    (he : enabled s e = true) (hd : defensive s = false ∨ e = .reset) :
    step s = perform e { s with inputs := rest } := by
  have hd' : defensive { s with inputs := rest } = defensive s := rfl
  unfold step performGuarded
  rw [hi, pick_head he]
  rcases hd with hd | rfl <;> simp_all

/-- What a step can answer with a next state: it performed one of the coming moves, which had a step, and no defensive
error stood unless the move was a reset. -/
theorem step_cases {s t : State} (h : step s = .next t) :
    ∃ e rest, pick s s.inputs = some (e, rest) ∧ enabled s e = true ∧ (defensive s = false ∨ e = .reset) ∧
      perform e { s with inputs := rest } = .next t := by
  unfold step at h
  split at h
  · rename_i e rest hp
    refine ⟨e, rest, hp, (pick_spec hp).2, ?_⟩
    unfold performGuarded at h
    have hd' : defensive { s with inputs := rest } = defensive s := rfl
    rw [hd'] at h
    split at h
    · unfold noMove at h; split at h <;> (try split at h) <;> cases h
    · rename_i hn
      refine ⟨?_, h⟩
      by_cases hr : e = .reset
      · exact .inr hr
      · left; simpa [hr] using hn
  · unfold noMove at h; split at h <;> (try split at h) <;> cases h

/-- What presenting a request can answer with a next state. -/
theorem presentRequest_cases {r : Request} {s t : State} (h : presentRequest r s = .next t) :
    (∃ i, encodeRequest i = r ∧ exec i s = .next t) ∨
    (10 ≤ r.kind.toNat ∧ s.phase = .idle ∧ t = (s.latch r).takeError r.kind (.unsupportedCommand r.kind)) := by
  unfold presentRequest at h
  split at h
  · exact .inl ⟨_, encodeRequest_of_decodeRequest ‹_›, h⟩
  · rename_i hd
    obtain ⟨hp, rfl⟩ := acceptUnmapped_cases h
    exact .inr ⟨(decodeRequest_error hd).2, hp, rfl⟩

/-- What the sequencer's move can answer with a next state (45_batch.md R190). -/
theorem batchMove_cases {s t : State} (h : batchMove s = .next t) :
    ∃ b, s.batch = .running b ∧
      ((b.performing = true ∧ t = batchLook b s) ∨
       (b.performing = false ∧ ∃ q, b.current = some q ∧
          presentRequest q { s with batch := .running { b with performing := true } } = .next t) ∨
       (b.performing = false ∧ b.current = none ∧ t = { s with batch := .completed b.results })) := by
  unfold batchMove at h
  split at h
  · rename_i b hb
    refine ⟨b, hb, ?_⟩
    split at h
    · cases h; exact .inl ⟨‹_›, rfl⟩
    · split at h
      · exact .inr (.inl ⟨by simpa using ‹¬ b.performing = true›, _, ‹_›, h⟩)
      · cases h; exact .inr (.inr ⟨by simpa using ‹¬ b.performing = true›, ‹_›, rfl⟩)
  · cases h

end Sys2Proof.Machine
end

