-- ==== Sys2Proof/Laws/Step.lean ====
section
/-! SUPPORT. Laws/Step.lean: everything a step can do, said once (`StepTo`), for the rules about all steps. -/

namespace Sys2Proof.Machine

open Sys2Proof

/-- What a step from `s` can lead to, with the move it took. -/
inductive StepTo (s : State) : State → Prop where
  | startedBatch (rest : List Event) (ws rs : List Request) (hm : TakenFrom s.inputs (.startBatch ws rs) rest)
      (hb : s.batch.isRunning = false) (hok : batchOk ws rs = true) :
      StepTo s { s with
        inputs := rest
        batch := .running { writes := ws, reads := rs, i := 0, j := 0, results := [], performing := false } }
  | lookedAtOutcome (rest : List Event) (b : BatchRun) (hm : TakenFrom s.inputs .batchMove rest)
      (hb : s.batch = .running b) (hp : b.performing = true) (hw : s.phase.waiting = false) :
      StepTo s (batchLook b { s with inputs := rest })
  | finishedBatch (rest : List Event) (b : BatchRun) (hm : TakenFrom s.inputs .batchMove rest)
      (hb : s.batch = .running b) (hp : b.performing = false) (hc : b.current = none) :
      StepTo s { s with inputs := rest, batch := .completed b.results }
  | executed (rest : List Event) (bt : Batch) (i : Instr) (t : State) (hb : Presented s rest bt (encodeRequest i))
      (h : exec i { s with inputs := rest, batch := bt } = .next t) : StepTo s t
  | unmapped (rest : List Event) (bt : Batch) (r : Request) (hb : Presented s rest bt r) (hp : s.phase = .idle)
      (hk : 10 ≤ r.kind.toNat) :
      StepTo s (({ s with inputs := rest, batch := bt }.latch r).takeError r.kind (.unsupportedCommand r.kind))
  | writeDone (rest : List Event) (hm : TakenFrom s.inputs (.answer .done) rest) (hp : s.phase = .waitTx) :
      StepTo s ({ s with inputs := rest }.finishOk s.req.kind)
  | failed (rest : List Event) (hm : TakenFrom s.inputs (.answer .fail) rest) (hp : s.phase.waiting = true) :
      StepTo s ({ s with inputs := rest }.takeError s.req.kind .collaborator)
  | captured (rest : List Event) (c : List Byte) (t : State) (hm : TakenFrom s.inputs (.answer (.bytes c)) rest)
      (hp : s.phase = .waitCap) (h : endRead c { s with inputs := rest } = .next t) : StepTo s t
  | discarded (rest : List Event) (a : Answer) (hm : TakenFrom s.inputs (.answer a) rest) (hp : s.phase = .idle)
      (ha : 0 < s.abandoned) : StepTo s { s with inputs := rest, abandoned := s.abandoned - 1 }
  | padWritten (rest : List Event) (v : Option Nat) (hm : TakenFrom s.inputs (.writePad v) rest)
      (hp : s.phase = .idle) (hv : padLegal v = true) :
      StepTo s { s with inputs := rest, cfg := { s.cfg with padExtWrite := v } }
  | opcWritten (rest : List Event) (v : BitVec 3) (hm : TakenFrom s.inputs (.writeOpc v) rest)
      (hp : s.phase = .idle) (hv : opcLegal v = true) :
      StepTo s { s with inputs := rest, cfg := { s.cfg with opcRegread := v } }
  | wasReset (rest : List Event) (hm : TakenFrom s.inputs .reset rest) :
      StepTo s ({ s with inputs := rest }.hardReset)

theorem stepTo_of_present {s t : State} {r : Request} {rest : List Event} {bt : Batch}
    (hb : Presented s rest bt r) (h : presentRequest r { s with inputs := rest, batch := bt } = .next t) :
    StepTo s t := by
  rcases presentRequest_cases h with ⟨i, rfl, hx⟩ | ⟨hk, hp, rfl⟩
  · exact .executed rest bt i t hb hx
  · exact .unmapped rest bt r hb hp hk

/-- The inversion of a step. -/
theorem stepTo_of_step {s t : State} (h : step s = .next t) : StepTo s t := by
  obtain ⟨e, rest, hm, he, -, hp⟩ := step_cases h
  replace hm := (pick_spec hm).1
  cases e with
  | present r =>
    exact stepTo_of_present (bt := s.batch) (.inl ⟨hm, by simp_all [enabled], rfl⟩) hp
  | writePad v => obtain ⟨h1, h2, rfl⟩ := writePad_cases hp; exact .padWritten rest v hm h1 h2
  | writeOpc v => obtain ⟨h1, h2, rfl⟩ := writeOpc_cases hp; exact .opcWritten rest v hm h1 h2
  | reset => cases hp; exact .wasReset rest hm
  | startBatch ws rs =>
    simp only [perform, startBatch] at hp
    split at hp <;> cases hp
    exact .startedBatch rest ws rs hm (by simpa [enabled] using he) ‹_›
  | batchMove =>
    obtain ⟨b, hb, ⟨hpf, rfl⟩ | ⟨hpf, q, hq, hx⟩ | ⟨hpf, hc, rfl⟩⟩ := batchMove_cases hp
    · have hb' : s.batch = .running b := hb
      refine .lookedAtOutcome rest b hm hb hpf ?_
      simpa [enabled, batchReady, hb', hpf] using he
    · exact stepTo_of_present (.inr ⟨hm, b, hb, hpf, hq, rfl⟩) hx
    · exact .finishedBatch rest b hm hb hpf hc
  | answer a =>
    rcases takeAnswer_cases hp with ⟨h1, rfl, rfl⟩ | ⟨h1, rfl, rfl⟩ | ⟨h1, c, rfl, h2⟩ | ⟨h1, h2, rfl⟩
    · exact .writeDone rest hm h1
    · exact .failed rest hm h1
    · exact .captured rest c t hm h1 h2
    · exact .discarded rest a hm h1 h2

/-- Looking at an outcome changes the batch alone. -/
theorem batchLook_eq (b : BatchRun) (s : State) :
    batchLook b s = { s with batch := if s.status.code = .ok then .running (b.advance s.rdata) else .aborted s.status } := by
  unfold batchLook; split <;> rfl

/-- A read kind's byte count is the explicit one (40_transaction.md R92). -/
theorem byteCountOf_readKind {r : Request} {k : Kind} (h : readKind r = some k) :
    byteCountOf k r.access = r.access.byteCount := by
  unfold readKind at h
  split at h
  · split at h <;> cases h
    simp_all [byteCountOf]
  · cases h

end Sys2Proof.Machine
end

