-- ==== Sys2Proof/Laws/Batch.lean ====
section
/-! SUPPORT. Laws/Batch.lean: the batch sequencer's lists and position (45_batch.md), and several instances
(20_memory.md R54). -/

namespace Sys2Proof.Machine

open Sys2Proof

/-- What may stand in a batch's list: every request of a mapped kind has the list's direction (R194). -/
theorem batchElementOk_iff (w : Bool) (r : Request) :
    batchElementOk w r = true ↔ ∀ i, decodeRequest r = .ok i → (desc i.kind).isWrite = w := by
  unfold batchElementOk decodeRequest
  cases kindOfCode r.kind <;> simp

/-- What starting a batch can answer with a next state (R190, R194). -/
theorem startBatch_cases {ws rs : List Request} {s t : State} (h : startBatch ws rs s = .next t) :
    batchOk ws rs = true ∧
    t = { s with
      batch := .running { writes := ws, reads := rs, i := 0, j := 0, results := [], performing := false } } := by
  unfold startBatch at h
  split at h <;> cases h
  exact ⟨‹_›, rfl⟩

/-- Where a batch that has a request to perform stands: in its writes, or past them in its reads (R191). -/
theorem BatchRun.Inv.position {b : BatchRun} (h : b.Inv) (hc : b.current.isSome = true) :
    b.i < b.writes.length ∨ (b.i = b.writes.length ∧ b.j < b.reads.length) := by
  have h1 := h.write_position
  by_cases hi : b.i < b.writes.length
  · exact .inl hi
  · refine .inr ⟨by omega, ?_⟩
    by_contra hn
    simp [BatchRun.current, hi, hn] at hc

/-- Going on after a performed request keeps the batch's order (R190). -/
theorem BatchRun.Inv.advance {b : BatchRun} (h : b.Inv) (hp : b.performing = true) (rdata : List Byte) :
    (b.advance rdata).Inv := by
  have hc := h.position (h.performing_one hp)
  obtain ⟨h1, h2, h3, h4, h5, h6⟩ := h
  unfold BatchRun.advance
  split
  · refine ⟨h1, ?_, h3, ?_, h5, by simp⟩ <;> simp <;> omega
  · refine ⟨h1, h2, ?_, ?_, by simp [h5], by simp⟩ <;> simp <;> omega

/-- A batch that runs when a request is presented is the one that presents it, and waits for its outcome (R190). -/
theorem Presented.performing {s : State} {rest : List Event} {bt : Batch} {r : Request}
    (h : Presented s rest bt r) {b : BatchRun} (hb : bt = .running b) : b.performing = true := by
  rcases h with ⟨-, hn, rfl⟩ | ⟨-, _, -, -, -, rfl⟩
  · simp [hb, Batch.isRunning] at hn
  · cases hb; rfl

/-- Presenting a request keeps the batch's order (R190). -/
theorem Presented.batch_inv {s : State} {rest : List Event} {bt : Batch} {r : Request} (h : Presented s rest bt r)
    (hs : ∀ b, s.batch = .running b → b.Inv) : ∀ b, bt = .running b → b.Inv := by
  rintro b rfl
  rcases h with ⟨-, -, hb⟩ | ⟨-, b', h1, -, h3, hb⟩
  · exact hs b hb.symm
  · cases hb
    obtain ⟨g1, g2, g3, g4, g5, -⟩ := hs _ h1
    exact ⟨g1, g2, g3, g4, g5, fun _ => by simp [BatchRun.current] at h3 ⊢; simp [h3]⟩

/-- What a step of a system can answer with a next state: its instance's own step (R54). -/
theorem systemStep_cases {k : Nat} {ss ts : List State} (h : systemStep k ss = .next ts) :
    ∃ s t, ss[k]? = some s ∧ step s = .next t ∧ ts = ss.set k t := by
  unfold systemStep at h
  split at h
  · rename_i s hk
    split at h <;> cases h
    exact ⟨s, _, hk, ‹_›, rfl⟩
  · cases h

end Sys2Proof.Machine
end

