-- ==== Sys2Proof/Laws/PerInstr.lean ====
section
/-! SUPPORT. Laws/PerInstr.lean: statements for all instructions, one lemma per constructor. -/

namespace Sys2Proof.Laws.RecordRoundTrip

open Sys2Proof

/-- The request record of an instruction holds its kind's code and all its operands, and reads back as it
(10_state.md R21, 30_encoding.md R60). -/
def Statement (i : Instr) : Prop :=
  decodeRequest (encodeRequest i) = .ok i ∧ (encodeRequest i).kind.toNat ≤ 9 ∧ (encodeRequest i).access = i.access

theorem regZeroWrite (a : RegisterAccess) : Statement (.regZeroWrite a) := ⟨rfl, kindCode_le _, rfl⟩

theorem regWrite (a : RegisterAccess) : Statement (.regWrite a) := ⟨rfl, kindCode_le _, rfl⟩

theorem regRead (a : RegisterAccess) : Statement (.regRead a) := ⟨rfl, kindCode_le _, rfl⟩

theorem regReadHighRate (a : RegisterAccess) : Statement (.regReadHighRate a) := ⟨rfl, kindCode_le _, rfl⟩

theorem extWrite (a : RegisterAccess) : Statement (.extWrite a) := ⟨rfl, kindCode_le _, rfl⟩

theorem extRead (a : RegisterAccess) : Statement (.extRead a) := ⟨rfl, kindCode_le _, rfl⟩

theorem extReadHighRate (a : RegisterAccess) : Statement (.extReadHighRate a) := ⟨rfl, kindCode_le _, rfl⟩

theorem extLongWrite (a : RegisterAccess) : Statement (.extLongWrite a) := ⟨rfl, kindCode_le _, rfl⟩

theorem extLongRead (a : RegisterAccess) : Statement (.extLongRead a) := ⟨rfl, kindCode_le _, rfl⟩

theorem extLongReadHighRate (a : RegisterAccess) : Statement (.extLongReadHighRate a) := ⟨rfl, kindCode_le _, rfl⟩

end Sys2Proof.Laws.RecordRoundTrip
end

