-- ==== Sys2Proof/Machine/Assembler.lean ====
section
/-! DEFINITION. Machine/Assembler.lean: the textual syntax of requests and batches (30_encoding.md R84, D26): text to
request records. It names no hardware behaviour. Where a kind ignores a field (R79) the record gets 0 or an empty
payload there, and every request of a text gets the timeout the caller gives (DESIGN CHOICE, log 18). -/

namespace Sys2Proof.Machine

open Sys2Proof

/-- A token of the syntax. -/
inductive Token where
  | word (cs : List Char)
  | comma
  | opening
  | closing
  | semicolon
  | colon
  deriving DecidableEq, Repr

/-- The word collected so far (in reverse), if any, in front of `ts`. -/
def flushWord (acc : List Char) (ts : List Token) : List Token :=
  match acc with
  | [] => ts
  | _ => .word acc.reverse :: ts

/-- A text cut into tokens; white space only separates. -/
def tokens : List Char → List Char → List Token
  | acc, [] => flushWord acc []
  | acc, c :: cs =>
    if c = ',' then flushWord acc (.comma :: tokens [] cs)
    else if c = '[' then flushWord acc (.opening :: tokens [] cs)
    else if c = ']' then flushWord acc (.closing :: tokens [] cs)
    else if c = ';' then flushWord acc (.semicolon :: tokens [] cs)
    else if c = ':' then flushWord acc (.colon :: tokens [] cs)
    else if c = ' ' ∨ c = '\n' then flushWord acc (tokens [] cs)
    else tokens (c :: acc) cs

/-- The value of a digit in base 16. -/
def digitValue (c : Char) : Option Nat :=
  let n := c.toNat
  if 48 ≤ n ∧ n ≤ 57 then some (n - 48)
  else if 65 ≤ n ∧ n ≤ 70 then some (n - 55)
  else if 97 ≤ n ∧ n ≤ 102 then some (n - 87)
  else none

/-- The value of digits in a base, after `acc`. -/
def digitsValue (base : Nat) : Nat → List Char → Option Nat
  | acc, [] => some acc
  | acc, c :: cs =>
    match digitValue c with
    | some d => if d < base then digitsValue base (acc * base + d) cs else none
    | none => none

/-- A number (R84): hexadecimal with `0x`, or decimal. -/
def number : List Char → Option Nat
  | [] => none
  | '0' :: 'x' :: c :: cs => digitsValue 16 0 (c :: cs)
  | cs => digitsValue 10 0 cs

/-- The kind a mnemonic names (R84: the kind's name in R60). -/
def kindOfMnemonic (cs : List Char) : Option Kind :=
  if cs = "RegZeroWrite".toList then some .regZeroWrite
  else if cs = "RegWrite".toList then some .regWrite
  else if cs = "RegRead".toList then some .regRead
  else if cs = "RegReadHighRate".toList then some .regReadHighRate
  else if cs = "ExtWrite".toList then some .extWrite
  else if cs = "ExtRead".toList then some .extRead
  else if cs = "ExtReadHighRate".toList then some .extReadHighRate
  else if cs = "ExtLongWrite".toList then some .extLongWrite
  else if cs = "ExtLongRead".toList then some .extLongRead
  else if cs = "ExtLongReadHighRate".toList then some .extLongReadHighRate
  else none

/-- The rest of a bracketed list of bytes. An element above 0xFF is refused (40_transaction.md R99). -/
def byteListTail : List Token → Option (List Byte × List Token)
  | .closing :: ts => some ([], ts)
  | .comma :: .word w :: ts =>
    match number w, byteListTail ts with
    | some v, some (bs, rest) => if v ≤ 0xFF then some (BitVec.ofNat 8 v :: bs, rest) else none
    | _, _ => none
  | _ => none

/-- A bracketed list of bytes, possibly empty. -/
def byteList : List Token → Option (List Byte × List Token)
  | .opening :: .closing :: ts => some ([], ts)
  | .opening :: .word w :: ts =>
    match number w, byteListTail ts with
    | some v, some (bs, rest) => if v ≤ 0xFF then some (BitVec.ofNat 8 v :: bs, rest) else none
    | _, _ => none
  | _ => none

/-- The operands of a kind (R84), with the tokens after them. -/
def operands (k : Kind) (t : Timeout) : List Token → Option (RegisterAccess × List Token)
  | .word sa :: .comma :: ts =>
    match number sa with
    | none => none
    | some sa =>
      if k = .regZeroWrite then
        (byteList ts).map fun p => ({ sa := sa, regAddr := 0, byteCount := 0, payload := p.1, timeout := t }, p.2)
      else
        match ts with
        | .word addr :: .comma :: ts =>
          match number addr with
          | none => none
          | some addr =>
            if (desc k).isWrite then
              (byteList ts).map fun p =>
                ({ sa := sa, regAddr := addr, byteCount := 0, payload := p.1, timeout := t }, p.2)
            else
              match ts with
              | .word bc :: ts =>
                (number bc).map fun bc =>
                  ({ sa := sa, regAddr := addr, byteCount := bc, payload := [], timeout := t }, ts)
              | _ => none
        | _ => none
  | _ => none

/-- A request (R84), with the tokens after it. -/
def request (t : Timeout) : List Token → Option (Request × List Token)
  | .word m :: ts =>
    match kindOfMnemonic m with
    | some k => (operands k t ts).map fun p => ({ kind := kindCode k, access := p.1 }, p.2)
    | none => none
  | _ => none

/-- Requests separated or ended by semicolons; `fuel` bounds how many. A list ends where no mnemonic begins. -/
def requests (t : Timeout) : Nat → List Token → Option (List Request × List Token)
  | 0, _ => none
  | fuel + 1, ts =>
    match request t ts with
    | none => some ([], ts)
    | some (r, .semicolon :: rest) => (requests t fuel rest).map fun p => (r :: p.1, p.2)
    | some (r, rest) => some ([r], rest)

/-- A single request as text (R84). -/
def assemble (t : Timeout) (text : List Char) : Option Request :=
  match request t (tokens [] text) with
  | some (r, []) => some r
  | _ => none

/-- A batch as text (R84): `BATCH WRITES: … READS: … END`. -/
def assembleBatch (t : Timeout) (text : List Char) : Option (List Request × List Request) :=
  match tokens [] text with
  | .word b :: .word w :: .colon :: ts =>
    if b = "BATCH".toList ∧ w = "WRITES".toList then
      match requests t (ts.length + 1) ts with
      | some (writes, .word r :: .colon :: ts') =>
        if r = "READS".toList then
          match requests t (ts'.length + 1) ts' with
          | some (reads, [.word e]) => if e = "END".toList then some (writes, reads) else none
          | _ => none
        else none
      | _ => none
    else none
  | _ => none

end Sys2Proof.Machine
end

