-- ==== Sys2Proof/Tests/Slice0.lean ====
section
/-! SUPPORT. Tests/Slice0.lean: small tests, each expected value taken from spec/ (the vector is named), and for each
statement with hypotheses a concrete case that meets them. -/

namespace Sys2Proof.Tests

set_option Elab.async false

open Sys2Proof Sys2Proof.Machine

/-! Helpers. -/

/-- A bit sequence written as text, first bit leftmost, spaces without meaning (00_scope.md R10). -/
def bits (s : String) : Bits := s.toList.filterMap fun c => if c = '0' then some false else if c = '1' then some true else none

/-- The operands of a request, with a timeout of the test's. -/
def ops (sa addr bc : Nat) (p : List Byte) : RegisterAccess := ⟨sa, addr, bc, p, ⟨7⟩⟩

/-- The next state of an outcome. -/
def after : Result → Option State
  | .next t => some t
  | _ => none

/-- The refusal of an outcome. -/
def refusal : Result → Option Refusal
  | .refused r => some r
  | _ => none

/-- The fault of an outcome. -/
def faultOf : Result → Option Fault
  | .fault f => some f
  | _ => none

/-- The frame an instruction builds from the state after reset. -/
def frameAfter (i : Instr) : Option Bits := (after (exec i State.reset)).map (·.frame)

/-- The frame an instruction builds with a given padding. -/
def paddedFrame (pad : Option Nat) (i : Instr) : Option Bits :=
  (after (exec i { State.reset with cfg := { padExtWrite := pad, opcRegread := 0b011#3 } })).map (·.frame)

/-- `STATUS` and `PHASE` after an instruction from the state after reset. -/
def outcome (i : Instr) : Option (Status × Phase) := (after (exec i State.reset)).map fun t => (t.status, t.phase)

/-- The state after reset with given moves to come. -/
def withMoves (es : List Event) : State := { State.reset with inputs := es }

/-- The read of 44_capture.md's vectors in progress, with old data in `RDATA` and given moves to come (95, L2-6). -/
def readInFlight (es : List Event) : State :=
  { State.reset with
    phase := .waitCap, req := encodeRequest (.extRead (ops 2 0x10 4 [])), reqValid := true, rdata := [0x99]
    frame := bits "0010 0011 0 000100000", inputs := es
    calls := [.transmitAndCapture (bits "0010 0011 0 000100000") 5 4 ⟨7⟩] }

/-- The write of 95, L1-1 in progress, with given moves to come. -/
def writeInFlight (es : List Event) : State :=
  { State.reset with
    phase := .waitTx, req := encodeRequest (.regWrite (ops 3 5 0 [0x7A])), reqValid := true
    frame := bits "0011 010 00101 0 01111010 0", inputs := es
    calls := [.transmit (bits "0011 010 00101 0 01111010 0") 1 ⟨7⟩] }

/-- The framer after an unmapped kind code (95, L2-7 row 6). -/
def faultedState (es : List Event) : State :=
  { State.reset with
    phase := .faulted, status := ⟨.unsupportedCommand, 12, .kind, 0, .upTo 9, 12⟩, inputs := es
    req := ⟨12, ops 0 0 0 []⟩, reqValid := true }

/-! Well-formedness: one ill-formed term for each check, which the check refuses. -/

theorem test_wf_sa : (Instr.regRead (ops 0x1000 0 1 [])).wf = false := by decide

theorem test_wf_addr : (Instr.regRead (ops 0 0x1000000 1 [])).wf = false := by decide

theorem test_wf_count : (Instr.regRead (ops 0 0 0x100 [])).wf = false := by decide

theorem test_wf_payload : (Instr.extWrite (ops 0 0 0 (List.replicate 256 0))).wf = false := by decide +kernel

theorem test_wf_timeout : (Instr.regRead ⟨0, 0, 1, [], ⟨0x10000⟩⟩).wf = false := by decide

/-- The ports of the request image meet 00_scope.md R8's constraints. -/
theorem test_ports_legal : Config.ports.legal = true := by decide

/-! Decoding: for each kind a word written out from R60's codes (bits 3..0) and log 1's places. -/

theorem test_decode_regZeroWrite : decodeTableWord 80 0x55010000000000000030 = some (.regZeroWrite ⟨3, 0, 0, [0x55], ⟨0⟩⟩) := by
  decide +kernel

theorem test_decode_regWrite : decodeTableWord 80 0x7A010000000000050031 = some (.regWrite ⟨3, 5, 0, [0x7A], ⟨0⟩⟩) := by
  decide +kernel

theorem test_decode_regRead : decodeTableWord 48 0x0100001F00F2 = some (.regRead ⟨15, 0x1F, 1, [], ⟨0⟩⟩) := by
  decide +kernel

theorem test_decode_regReadHighRate : decodeTableWord 48 0x010000050033 = some (.regReadHighRate ⟨3, 5, 1, [], ⟨0⟩⟩) := by
  decide +kernel

theorem test_decode_extWrite :
    decodeTableWord 88 0x00A50200000000002C0014 = some (.extWrite ⟨1, 0x2C, 0, [0xA5, 0x00], ⟨0⟩⟩) := by decide +kernel

theorem test_decode_extRead : decodeTableWord 48 0x040000100025 = some (.extRead ⟨2, 0x10, 4, [], ⟨0⟩⟩) := by
  decide +kernel

theorem test_decode_extReadHighRate : decodeTableWord 48 0x100000FF00F6 = some (.extReadHighRate ⟨15, 0xFF, 16, [], ⟨0⟩⟩) := by
  decide +kernel

theorem test_decode_extLongWrite :
    decodeTableWord 80 0xFF010000000012340077 = some (.extLongWrite ⟨7, 0x1234, 0, [0xFF], ⟨0⟩⟩) := by decide +kernel

theorem test_decode_extLongRead : decodeTableWord 48 0x0800BEEF0098 = some (.extLongRead ⟨9, 0xBEEF, 8, [], ⟨0⟩⟩) := by
  decide +kernel

theorem test_decode_extLongReadHighRate :
    decodeTableWord 48 0x030000FF0059 = some (.extLongReadHighRate ⟨5, 0xFF, 3, [], ⟨0⟩⟩) := by decide +kernel

/-- R61: codes 10 and 15 decode to nothing. -/
theorem test_decode_unmapped : decodeTableWord 8 0x0A = none ∧ decodeTableWord 8 0x0F = none := by decide +kernel

/-- The timeout's place in the request image (log 1). -/
theorem test_decode_timeout : decodeTableWord 64 0xBEEF010000050032 = some (.regRead ⟨3, 5, 1, [], ⟨0xBEEF⟩⟩) := by
  decide +kernel

/-- A request image cut short is refused. -/
theorem test_decode_truncated : decode [0x30, 0, 0, 0, 0, 0, 0, 0, 1] = .error .truncated := by rfl

/-- A word placed by the host's withFetchWord runs as the first step after reset. -/
theorem test_fetch_word :
    (after (step (State.reset.withFetchWord 80 0x7A010000000000050031))).map (·.frame) =
      some (bits "0011 010 00101 0 01111010 0") := by decide +kernel

/-! The instructions: frames of 95_test_vectors.md. -/

/-- 95, worked example of R110. -/
theorem test_regZeroWrite : frameAfter (.regZeroWrite (ops 3 0 0 [0x55])) = some (bits "0011 1010101 1") := by
  decide +kernel

/-- 95, L2-5: the payload bound. -/
theorem test_regZeroWrite_payload : outcome (.regZeroWrite (ops 0 0 0 [0x80])) =
    some (⟨.validation, 0, .payload, 0, .upTo 0x7F, 0x80⟩, .idle) := by decide +kernel

/-- 95, L1-1: the corrected scenario of the source. -/
theorem test_regWrite : frameAfter (.regWrite (ops 3 5 0 [0x7A])) = some (bits "0011 010 00101 0 01111010 0") := by
  decide +kernel

/-- 95, L2-5: slave address, register address and count all bad: the slave address is reported. -/
theorem test_regWrite_priority : outcome (.regWrite (ops 0x10 0x20 0 [])) =
    some (⟨.validation, 1, .sa, 0, .upTo 0xF, 0x10⟩, .idle) := by decide +kernel

/-- 95, L2-2. -/
theorem test_regRead : frameAfter (.regRead (ops 0xF 0x1F 1 [])) = some (bits "1111 011 11111 0") := by decide +kernel

/-- 95, L2-2: another opcode in `CFG.opc_regread`. -/
theorem test_regRead_opcode :
    (after (exec (.regRead (ops 3 5 1 [])) { State.reset with cfg := ⟨some 163, 0b111#3⟩ })).map (·.frame) =
      some (bits "0011 111 00101 0") := by decide +kernel

/-- 95, L2-2. -/
theorem test_regReadHighRate : frameAfter (.regReadHighRate (ops 0xF 0 1 [])) = some (bits "1111 011 00000 1") := by
  decide +kernel

/-- R113: the kind on the side-band is 3. -/
theorem test_regReadHighRate_call : (after (exec (.regReadHighRate (ops 3 5 1 [])) State.reset)).map (·.calls) =
    some [.transmitAndCapture (bits "0011 011 00101 1") 3 1 ⟨7⟩] := by decide +kernel

/-- 95, L2-3: padding to 163. -/
theorem test_extWrite_padded : frameAfter (.extWrite (ops 1 0x2C 0 [0xA5, 0])) =
    some (bits "0001 0001 0 001011000 101001011 000000001" ++ List.replicate 127 false) := by decide +kernel

/-- 95, L2-3: `NONE`, no padding. -/
theorem test_extWrite_unpadded : paddedFrame none (.extWrite (ops 1 0x2C 0 [0xA5, 0])) =
    some (bits "0001 0001 0 001011000 101001011 000000001") := by decide +kernel

/-- 95, L2-3. -/
theorem test_extRead : frameAfter (.extRead (ops 2 0x10 4 [])) = some (bits "0010 0011 0 000100000") := by decide +kernel

/-- 95, L1-4: byte count 17. -/
theorem test_extRead_count : outcome (.extRead (ops 0 0 17 [])) =
    some (⟨.validation, 5, .byteCount, 1, .upTo 16, 17⟩, .idle) := by decide +kernel

/-- 95, L2-3. -/
theorem test_extReadHighRate : frameAfter (.extReadHighRate (ops 0xF 0xFF 16 [])) = some (bits "1111 1111 0 111111111") := by
  decide +kernel

/-- 95, L1-3: register address 0x100. -/
theorem test_extReadHighRate_addr : outcome (.extReadHighRate (ops 0 0x100 1 [])) =
    some (⟨.validation, 6, .regAddr, 0, .upTo 0xFF, 0x100⟩, .idle) := by decide +kernel

/-- 95, L2-4: high address byte first. -/
theorem test_extLongWrite : frameAfter (.extLongWrite (ops 7 0x1234 0 [0xFF])) =
    some (bits "0111 000 1 000100101 001101000 111111111") := by decide +kernel

/-- 95, L1-4: nine payload bytes. -/
theorem test_extLongWrite_count : outcome (.extLongWrite (ops 0 0 0 (List.replicate 9 0))) =
    some (⟨.validation, 7, .byteCount, 1, .upTo 8, 9⟩, .idle) := by decide +kernel

/-- 95, L2-4. -/
theorem test_extLongRead : frameAfter (.extLongRead (ops 9 0xBEEF 8 [])) = some (bits "1001 111 1 101111101 111011110") := by
  decide +kernel

/-- 95, L2-5: the address is reported before the count. -/
theorem test_extLongRead_addr : outcome (.extLongRead (ops 1 0x10000 9 [])) =
    some (⟨.validation, 8, .regAddr, 0, .upTo 0xFFFF, 0x10000⟩, .idle) := by decide +kernel

/-- 95, L2-4. -/
theorem test_extLongReadHighRate : frameAfter (.extLongReadHighRate (ops 5 0xFF 3 [])) =
    some (bits "0101 010 1 000000001 111111111") := by decide +kernel

/-- 95, L2-6: a failed high-rate read. -/
theorem test_extLongReadHighRate_fail :
    (after (step { State.reset with phase := .waitCap, reqValid := true, rdata := [0x99], inputs := [.answer .fail]
                                    req := encodeRequest (.extLongReadHighRate (ops 5 0xFF 3 [])) })).map
      (fun t => (t.status, t.rdata, t.phase)) = some (⟨.collaborator, 9, .none, 0, .upTo 0, 0⟩, [0x99], .idle) := by
  decide +kernel

/-! The rest of the machine. -/

/-- 95, L2-5: an unmapped code, bad operands. -/
theorem test_unmapped : (after (step (withMoves [.present ⟨12, ops 0x10 0x10000 0 []⟩]))).map (fun t => (t.status, t.phase)) =
    some (⟨.unsupportedCommand, 12, .kind, 0, .upTo 9, 12⟩, .faulted) := by decide +kernel

/-- 95, L2-6: a capture of six bytes for four. -/
theorem test_capture_excess :
    (after (step (readInFlight [.answer (.bytes [0x11, 0x22, 0x33, 0x44, 0x55, 0x66])]))).map
      (fun t => (t.status, t.rdata, t.phase)) =
      some (⟨.ok, 5, .none, 0, .upTo 0, 0⟩, [0x11, 0x22, 0x33, 0x44], .idle) := by decide +kernel

/-- 95, L2-6: a capture of three bytes for four. -/
theorem test_capture_shortfall :
    (after (step (readInFlight [.answer (.bytes [0x11, 0x22, 0x33])]))).map (fun t => (t.status, t.rdata, t.phase)) =
      some (⟨.captureShortfall, 5, .capture, 4, .unbounded, 3⟩, [0x99], .idle) := by decide +kernel

/-- 95, L2-7 row 2: a request presented in `WAIT_TX` waits. -/
theorem test_present_waits :
    refusal (step (writeInFlight [.present (encodeRequest (.regRead (ops 3 5 1 [])))])) = some .noStep := by decide +kernel

/-- 20_memory.md R53: a batch does not overtake a request that waits, nor does a configuration write. -/
theorem test_order_kept :
    refusal (step (writeInFlight [.present ⟨2, ops 3 5 1 []⟩, .startBatch [] [], .writePad none])) = some .noStep := by
  decide +kernel

/-- 45_batch.md R190, 20_memory.md R53: with a request waiting for the batch to end, and a configuration write behind
it, the step is the batch's own. -/
theorem test_order_in_batch :
    (after (step { withMoves [.present ⟨2, ops 3 5 1 []⟩, .writePad none, .batchMove] with
      batch := .running ⟨[], [], 0, 0, [], false⟩ })).map (·.inputs) =
      some [.present ⟨2, ops 3 5 1 []⟩, .writePad none] := by decide +kernel

/-- 95, L2-7 row 3: no configuration write in `WAIT_TX`. -/
theorem test_pad_waits : refusal (step (writeInFlight [.writePad none])) = some .noStep := by decide +kernel

/-- 95, L2-7 row 4: a padding length below 162. -/
theorem test_pad_illegal : refusal (step (withMoves [.writePad (some 100)])) = some .illegalPadLength := by decide +kernel

/-- 95, L2-7 row 5: padding to 162. -/
theorem test_pad_162 : (paddedFrame (some 162) (.extWrite (ops 0 0 0 [0]))).map List.length = some 162 := by decide +kernel

/-- 95, L2-7 row 6: `FAULTED` takes no request. -/
theorem test_faulted_waits :
    refusal (step (faultedState [.present (encodeRequest (.regRead (ops 3 5 1 [])))])) = some .noStep := by decide +kernel

/-- 95, L2-7 rows 7 and 1: reset. -/
theorem test_reset : (after (step (faultedState [.reset]))).map (fun t => (t.phase, t.status, t.cfg, t.frame, t.rdata)) =
    some (.idle, ⟨.none, 0, .none, 0, .upTo 0, 0⟩, ⟨some 163, 0b011#3⟩, [], []) := by decide +kernel

/-- 95, L2-7 row 8, second half: the late answer is discarded. -/
theorem test_late_answer :
    (after (step { (readInFlight []).hardReset with inputs := [.answer (.bytes [0x11, 0x22, 0x33, 0x44])] })).map
      (fun t => (t.rdata, t.status.code, t.phase)) = some ([], .none, .idle) := by decide +kernel

/-- 95, L2-7 row 9. -/
theorem test_done_in_waitCap : refusal (step (readInFlight [.answer .done])) = some .answerMismatch := by decide +kernel

/-- R32, 93 I14: `REQ` read before a request was accepted. -/
theorem test_req_unwritten : faultOf (endWrite State.reset) = some .reqUnwritten := by
  decide +kernel

/-- R217: the defensive BuildMisuse, and that its state is a fault. -/
theorem test_build_misuse :
    faultOf (step (State.takeError State.reset 3 (match buildChecked false (.ok []) with | .error e => e | .ok _ => .collaborator))) =
      some .buildMisuse := by decide +kernel

/-- R211's example of an error as text. -/
theorem test_render : renderStatus ⟨.validation, 0, .sa, 0, .upTo 0xF, 0x10⟩ = "ValidationError: SA = 0x10 outside [0x0, 0xF]".toList := by
  decide +kernel

/-- R84: the request text of 95, L1-1. -/
theorem test_assemble : assemble ⟨7⟩ "RegWrite 0x3, 0x05, [0x7A]".toList = some (encodeRequest (.regWrite (ops 3 5 0 [0x7A]))) := by
  decide +kernel

/-- R84: the batch text of 95, P1. -/
theorem test_assemble_batch :
    assembleBatch ⟨7⟩
      "BATCH\n  WRITES: RegWrite 0x3, 0x5, [0x7A]; ExtWrite 0x3, 0x10, [0x01, 0x02];\n  READS:  RegRead 0x3, 0x5, 1; ExtRead 0x3, 0x10, 2;\nEND".toList =
    some ([encodeRequest (.regWrite (ops 3 5 0 [0x7A])), encodeRequest (.extWrite (ops 3 0x10 0 [1, 2]))],
      [encodeRequest (.regRead (ops 3 5 1 [])), encodeRequest (.extRead (ops 3 0x10 2 []))]) := by decide +kernel

/-- 95, P5: the batch stops with the collaborator's failure. -/
theorem test_batch_aborts :
    (after (step { State.reset with
        status := ⟨.collaborator, 6, .none, 0, .upTo 0, 0⟩, inputs := [.batchMove]
        batch := .running ⟨[], [encodeRequest (.extReadHighRate (ops 0xC 0x40 2 []))], 0, 0, [], true⟩ })).map (·.batch) =
      some (.aborted ⟨.collaborator, 6, .none, 0, .upTo 0, 0⟩) := by decide +kernel

/-! For each statement with hypotheses (Obligations.<Name>, witness_<Name>): a concrete case that meets them together,
one for each clause, at the boundary of its range. -/

theorem witness_DecodeEncodeRoundTrip :
    (Instr.extRead ⟨0xFFF, 0xFFFFFF, 0xFF, [0xAA], ⟨0xFFFF⟩⟩).wf = true := by decide

theorem witness_EncodeDecodeRoundTrip :
    decode [0x31, 0, 5, 0, 0, 0, 0, 0, 1, 0x7A, 0xEE] = .ok (.regWrite ⟨3, 5, 0, [0x7A], ⟨0⟩⟩, [0xEE]) := by rfl

theorem witness_UnmappedCodeFaultsTheFramer :
    State.reset.phase = .idle ∧ 10 ≤ (⟨10, ops 0 0 0 []⟩ : Request).kind.toNat ∧
    10 ≤ (⟨15, ops 0 0 0 []⟩ : Request).kind.toNat := by decide

theorem witness_StepRunsThePresentedInstruction :
    (withMoves [.present ⟨9, ops 5 0xFF 3 []⟩]).phase = .idle ∧
    (withMoves [.present ⟨9, ops 5 0xFF 3 []⟩]).batch.isRunning = false ∧
    (withMoves [.present ⟨9, ops 5 0xFF 3 []⟩]).inputs = [.present ⟨9, ops 5 0xFF 3 []⟩] ∧
    decodeRequest ⟨9, ops 5 0xFF 3 []⟩ = .ok (.extLongReadHighRate (ops 5 0xFF 3 [])) ∧
    (withMoves [.present ⟨10, ops 0 0 0 []⟩]).inputs = [.present ⟨10, ops 0 0 0 []⟩] ∧
    10 ≤ (⟨10, ops 0 0 0 []⟩ : Request).kind.toNat := ⟨rfl, rfl, rfl, rfl, rfl, by decide⟩

theorem witness_FetchedWordRuns : decodeTableWord 48 0x010000050032 = some (.regRead ⟨3, 5, 1, [], ⟨0⟩⟩) := by
  decide +kernel

theorem witness_PresentedRequestWaitsForIdle :
    (writeInFlight [.present ⟨2, ops 3 5 1 []⟩, .answer .done]).phase.waiting = true ∧
    (readInFlight [.writePad none, .startBatch [] [], .answer .fail]).phase.waiting = true ∧
    (∃ u, step { writeInFlight [.present ⟨2, ops 3 5 1 []⟩, .answer .done] with inputs := [.answer .done] } = .next u) ∧
    ∃ u, step { readInFlight [.writePad none, .startBatch [] [], .answer .fail] with inputs := [.answer .fail] } = .next u :=
  ⟨rfl, rfl, ⟨_, rfl⟩, _, rfl⟩

theorem witness_ToBitsIsMostSignificantFirst :
    15 < 2 ^ 4 ∧ 2 ^ 4 ≤ 16 ∧ 0 < 2 ^ 0 ∧ 2 ^ 0 ≤ 1 ∧ validate .regZeroWrite (ops 0xF 0 0 [0x7F]) = .ok () :=
  ⟨by decide, by decide, by decide, by decide, rfl⟩

theorem witness_RegZeroWriteHandsOverItsFrame :
    State.reset.phase = .idle ∧ (ops 0xF 0x1234 9 [0x7F]).sa ≤ 0xF ∧ (ops 0xF 0x1234 9 [0x7F]).payload = [0x7F] ∧
    (0x7F : Byte).toNat ≤ 0x7F := by decide

theorem witness_RegWriteHandsOverItsFrame :
    State.reset.phase = .idle ∧ (ops 0xF 0x1F 0 [0xFF]).sa ≤ 0xF ∧ (ops 0xF 0x1F 0 [0xFF]).regAddr ≤ 0x1F ∧
    (ops 0xF 0x1F 0 [0xFF]).payload = [0xFF] := by decide

theorem witness_RegReadsHandOverTheirFrame :
    State.reset.phase = .idle ∧ (ops 0xF 0x1F 1 []).sa ≤ 0xF ∧ (ops 0xF 0x1F 1 []).regAddr ≤ 0x1F ∧
    (ops 0xF 0x1F 1 []).byteCount = 1 := by decide

theorem witness_ExtWriteHandsOverItsFrame :
    State.reset.phase = .idle ∧ (ops 0xF 0xFF 0 (List.replicate 16 0xA5)).sa ≤ 0xF ∧
    (ops 0xF 0xFF 0 (List.replicate 16 0xA5)).regAddr ≤ 0xFF ∧
    1 ≤ (ops 0xF 0xFF 0 (List.replicate 16 0xA5)).payload.length ∧
    (ops 0xF 0xFF 0 (List.replicate 16 0xA5)).payload.length ≤ 16 ∧ cfgLegal State.reset.cfg = true := by decide

theorem witness_ExtReadsHandOverTheirFrame :
    State.reset.phase = .idle ∧ (ops 0xF 0xFF 16 []).sa ≤ 0xF ∧ (ops 0xF 0xFF 16 []).regAddr ≤ 0xFF ∧
    1 ≤ (ops 0xF 0xFF 16 []).byteCount ∧ (ops 0xF 0xFF 16 []).byteCount ≤ 16 := by decide

theorem witness_ExtLongWriteHandsOverItsFrame :
    State.reset.phase = .idle ∧ (ops 0xF 0xFFFF 0 (List.replicate 8 1)).sa ≤ 0xF ∧
    (ops 0xF 0xFFFF 0 (List.replicate 8 1)).regAddr ≤ 0xFFFF ∧
    1 ≤ (ops 0xF 0xFFFF 0 (List.replicate 8 1)).payload.length ∧
    (ops 0xF 0xFFFF 0 (List.replicate 8 1)).payload.length ≤ 8 := by decide

theorem witness_ExtLongReadsHandOverTheirFrame :
    State.reset.phase = .idle ∧ (ops 0xF 0xFFFF 8 []).sa ≤ 0xF ∧ (ops 0xF 0xFFFF 8 []).regAddr ≤ 0xFFFF ∧
    1 ≤ (ops 0xF 0xFFFF 8 []).byteCount ∧ (ops 0xF 0xFFFF 8 []).byteCount ≤ 8 := by decide

/-- An earlier rejected request: `STATUS.field` is `SA`, `REG_ADDR` or `BYTE_COUNT` before the step. -/
def afterError (f : StatusField) : State :=
  { State.reset with status := ⟨.validation, 1, f, 0, .upTo 0xF, 0x10⟩ }

theorem witness_SlaveAddressAboveFIsRejected :
    State.reset.phase = .idle ∧ 0xF < (Instr.regRead (ops 0x10 0 1 [])).access.sa ∧ (afterError .sa).phase = .idle ∧
    (Instr.regRead (ops 0xF 0 1 [])).access.sa ≤ 0xF ∧
    ∃ t, exec (.regRead (ops 0xF 0 1 [])) (afterError .sa) = .next t ∧ t.status.field = .sa :=
  ⟨rfl, by decide, rfl, by decide, _, rfl, rfl⟩

theorem witness_RegisterAddressAboveItsWidthIsRejected :
    State.reset.phase = .idle ∧ (Instr.regRead (ops 0xF 0x20 1 [])).access.sa ≤ 0xF ∧
    (Instr.regRead (ops 0xF 0x20 1 [])).kind ≠ .regZeroWrite ∧
    Spec.greatestAddress (Instr.regRead (ops 0xF 0x20 1 [])).kind < (Instr.regRead (ops 0xF 0x20 1 [])).access.regAddr ∧
    Spec.addressOk (.regRead (ops 0xF 0x1F 1 [])) ∧ Spec.addressOk (.regZeroWrite (ops 0xF 0x20 0 [1])) ∧
    (∃ t, exec (.regRead (ops 0xF 0x1F 1 [])) (afterError .regAddr) = .next t ∧ t.status.field = .regAddr) ∧
    ∃ t, exec (.regZeroWrite (ops 0xF 0 0 [1])) State.reset = .next t :=
  ⟨rfl, by decide, by decide, by decide, .inr (by decide), .inl rfl, ⟨_, rfl, rfl⟩, _, rfl⟩

theorem witness_ByteCountOutOfRangeIsRejected :
    State.reset.phase = .idle ∧ Spec.addressOk (.extRead (ops 0xF 0xFF 17 [])) ∧
    ¬ Spec.countOk (.extRead (ops 0xF 0xFF 17 [])) ∧ ¬ Spec.countOk (.extRead (ops 0xF 0xFF 0 [])) ∧
    ¬ Spec.countOk (.regWrite (ops 0xF 0x1F 1 [0, 0])) ∧ Spec.countOk (.extRead (ops 0xF 0xFF 16 [])) ∧
    ∃ t, exec (.extRead (ops 0xF 0xFF 16 [])) (afterError .byteCount) = .next t ∧ t.status.field = .byteCount := by
  refine ⟨rfl, .inr (by decide), ?_, ?_, ?_, ?_, _, rfl, rfl⟩ <;> unfold Spec.countOk <;> decide

theorem witness_RegZeroWritePayloadAbove7FIsRejected :
    State.reset.phase = .idle ∧ (ops 0xF 0 0 [0x80]).sa ≤ 0xF ∧ (ops 0xF 0 0 [0x80]).payload = [0x80] ∧
    0x7F < (0x80 : Byte).toNat := by decide

theorem witness_AcceptedExactlyWhenInRange :
    State.reset.phase = .idle ∧ (ops 0xF 0 0 [0x7F]).sa ≤ 0xF ∧ Spec.addressOk (.regZeroWrite (ops 0xF 0 0 [0x7F])) ∧
    Spec.countOk (.regZeroWrite (ops 0xF 0 0 [0x7F])) ∧ Spec.reg0Ok (.regZeroWrite (ops 0xF 0 0 [0x7F])) := by
  refine ⟨rfl, by decide, .inl rfl, by unfold Spec.countOk; decide, fun _ d h => ?_⟩
  cases h; decide

theorem witness_ValidationFailureChangesOnlyStatus :
    State.reset.phase = .idle ∧
    validate (Instr.extRead (ops 1 0x100 0 [])).kind (Instr.extRead (ops 1 0x100 0 [])).access =
      .error (.validation .regAddr 0 0xFF 0x100) := ⟨rfl, rfl⟩

theorem witness_InstructionsLeaveTheRestUnchanged :
    (∃ t, exec (.regRead (ops 0x10 5 1 [])) State.reset = .next t ∧ t.phase = .idle) ∧
    ∃ t, exec (.regRead (ops 3 5 1 [])) State.reset = .next t ∧ t.phase ≠ .idle :=
  ⟨⟨_, rfl, rfl⟩, _, rfl, by decide⟩

theorem witness_EveryInstructionRunsInIdleOnly :
    State.reset.phase = .idle ∧ (writeInFlight []).phase ≠ .idle ∧ (faultedState []).phase ≠ .idle := by decide

theorem witness_FramesFollowTheirFormats :
    cfgLegal ⟨none, 0b011#3⟩ = true ∧ cfgLegal ⟨some 162, 0b011#3⟩ = true ∧
    ((ops 0xF 0x1F 0 [0xFF]).sa ≤ 0xF ∧ (ops 0xF 0x1F 0 [0xFF]).regAddr ≤ 0x1F ∧ (ops 0xF 0x1F 0 [0xFF]).payload = [0xFF]) ∧
    ((ops 0xF 0xFF 16 (List.replicate 16 0)).regAddr ≤ 0xFF ∧ 1 ≤ (ops 0xF 0xFF 16 (List.replicate 16 0)).payload.length ∧
      (ops 0xF 0xFF 16 (List.replicate 16 0)).payload.length ≤ 16 ∧ 1 ≤ (ops 0xF 0xFF 16 []).byteCount ∧
      (ops 0xF 0xFF 16 []).byteCount ≤ 16) ∧
    ((ops 0xF 0xFFFF 8 (List.replicate 8 0)).regAddr ≤ 0xFFFF ∧ 1 ≤ (ops 0xF 0xFFFF 8 (List.replicate 8 0)).payload.length ∧
      (ops 0xF 0xFFFF 8 (List.replicate 8 0)).payload.length ≤ 8 ∧ 1 ≤ (ops 0xF 0xFFFF 8 []).byteCount ∧
      (ops 0xF 0xFFFF 8 []).byteCount ≤ 8) := by decide

theorem witness_FrameLengthIsStaticallyKnown :
    cfgLegal ⟨none, 0b011#3⟩ = true ∧ cfgLegal ⟨some 162, 0b111#3⟩ = true ∧
    validate (Instr.extWrite (ops 0 0 0 [0])).kind (Instr.extWrite (ops 0 0 0 [0])).access = .ok () ∧
    validate (Instr.extWrite (ops 0xF 0xFF 0 (List.replicate 16 0))).kind
      (Instr.extWrite (ops 0xF 0xFF 0 (List.replicate 16 0))).access = .ok () := ⟨rfl, rfl, rfl, rfl⟩

theorem witness_ExtWriteAndExtReadFramesDifferInBit8AndLength :
    validate .extWrite (ops 2 0x10 0 [0x11, 0x22, 0x33, 0x44]) = .ok () ∧
    (ops 2 0x10 0 [0x11, 0x22, 0x33, 0x44]).payload.length = (ops 2 0x10 4 []).byteCount ∧
    (∃ f, buildFrame .extWrite (ops 2 0x10 0 [0x11, 0x22, 0x33, 0x44]) Cfg.reset = .ok f) ∧
    ∃ g, buildFrame .extRead (ops 2 0x10 4 []) Cfg.reset = .ok g := ⟨rfl, rfl, ⟨_, rfl⟩, _, rfl⟩

theorem witness_DataGroupsHaveOddWeight :
    (validate .extWrite (ops 1 0x2C 0 [0xA5, 0]) = .ok () ∧
      (∃ f, buildFrame .extWrite (ops 1 0x2C 0 [0xA5, 0]) Cfg.reset = .ok f) ∧
      (ops 1 0x2C 0 [0xA5, 0]).payload[1]? = some 0) ∧
    validate .extLongWrite (ops 7 0x1234 0 [0xFF]) = .ok () ∧
    (∃ f, buildFrame .extLongWrite (ops 7 0x1234 0 [0xFF]) Cfg.reset = .ok f) ∧
    (ops 7 0x1234 0 [0xFF]).payload[0]? = some 0xFF := ⟨⟨rfl, ⟨_, rfl⟩, rfl⟩, rfl, ⟨_, rfl⟩, rfl⟩

theorem witness_CommandAndAddressGroupsHaveOddWeight :
    (validate .extWrite (ops 1 0x2C 0 [0xA5, 0]) = .ok () ∧
      ∃ f, buildFrame .extWrite (ops 1 0x2C 0 [0xA5, 0]) Cfg.reset = .ok f) ∧
    (validate .extLongRead (ops 9 0xBEEF 8 []) = .ok () ∧
      ∃ f, buildFrame .extLongRead (ops 9 0xBEEF 8 []) Cfg.reset = .ok f) ∧
    validate .regWrite (ops 3 5 0 [0x7A]) = .ok () ∧
    ∃ f, buildFrame .regWrite (ops 3 5 0 [0x7A]) Cfg.reset = .ok f :=
  ⟨⟨rfl, _, rfl⟩, ⟨rfl, _, rfl⟩, rfl, _, rfl⟩

theorem witness_IgnoredOperandsChangeNothing :
    (∃ t, exec (.regWrite (ops 3 5 0 [0x7A])) State.reset = .next t) ∧
    ∃ t, exec (.regRead (ops 3 5 1 [])) State.reset = .next t := ⟨⟨_, rfl⟩, _, rfl⟩

theorem witness_EarlierTransactionsDoNotInfluenceARequest :
    State.reset.phase = .idle ∧ (afterError .sa).phase = .idle ∧ State.reset.cfg = (afterError .sa).cfg := by decide

theorem witness_WriteEndsWithOk :
    (writeInFlight [.answer .done]).phase = .waitTx ∧
    (writeInFlight [.answer .done]).inputs = [.answer .done] := ⟨rfl, rfl⟩

theorem witness_CaptureEndsTheRead :
    (readInFlight [.answer (.bytes [1, 2, 3, 4])]).phase = .waitCap ∧
    (readInFlight [.answer (.bytes [1, 2, 3, 4])]).req = encodeRequest (.extRead (ops 2 0x10 4 [])) ∧
    Spec.writes (Instr.extRead (ops 2 0x10 4 [])).kind = false ∧
    (readInFlight [.answer (.bytes [1, 2, 3, 4])]).inputs = [.answer (.bytes [1, 2, 3, 4])] ∧
    (Instr.extRead (ops 2 0x10 4 [])).access.byteCount ≤ [1, 2, 3, 4].length ∧
    [1, 2, 3].length < (Instr.extRead (ops 2 0x10 4 [])).access.byteCount :=
  ⟨rfl, rfl, rfl, rfl, by decide, by decide⟩

theorem witness_FailureEndsTheTransaction :
    ((writeInFlight [.answer .fail]).phase.waiting = true ∧
      (writeInFlight [.answer .fail]).inputs = [.answer .fail]) ∧
    (readInFlight [.answer .fail]).phase.waiting = true ∧
    (readInFlight [.answer .fail]).inputs = [.answer .fail] := ⟨⟨rfl, rfl⟩, rfl, rfl⟩

theorem witness_ReadRoundTrip :
    Spec.writes (Instr.regRead (ops 3 5 1 [])).kind = false ∧
    (∃ t, exec (.regRead (ops 3 5 1 [])) { State.reset with inputs := [.answer (.bytes [0x5A])] } = .next t ∧
      t.phase = .waitCap) ∧
    (Instr.regRead (ops 3 5 1 [])).access.byteCount ≤ [0x5A].length := ⟨rfl, ⟨_, rfl, rfl⟩, by decide⟩

theorem witness_MismatchedAnswerHasNoStep :
    ((readInFlight [.answer .done]).phase = .waitCap ∧ (readInFlight [.answer .done]).inputs = [.answer .done]) ∧
    (writeInFlight [.answer (.bytes [])]).phase = .waitTx ∧
    (writeInFlight [.answer (.bytes [])]).inputs = [.answer (.bytes [])] := ⟨⟨rfl, rfl⟩, rfl, rfl⟩

/-- A step for each way the statement allows. -/
theorem witness_PhaseChangesAsListed :
    (∃ t, step (withMoves [.present ⟨1, ops 3 5 0 [0x7A]⟩]) = .next t ∧ t.phase = .waitTx) ∧
    (∃ t, step (withMoves [.present ⟨2, ops 3 5 1 []⟩]) = .next t ∧ t.phase = .waitCap) ∧
    (∃ t, step (withMoves [.present ⟨12, ops 3 5 1 []⟩]) = .next t ∧ t.phase = .faulted) ∧
    (∃ t, step (writeInFlight [.answer .done]) = .next t ∧ t.phase = .idle) ∧
    (∃ t, step (readInFlight [.answer .fail]) = .next t ∧ t.phase = .idle) ∧
    (∃ t, step (readInFlight [.answer (.bytes [1])]) = .next t ∧ t.phase = .idle) ∧
    (∃ t, step (faultedState [.reset]) = .next t ∧ t.phase = .idle) ∧
    (∃ t, step (withMoves [.present ⟨2, ops 3 0x20 1 []⟩]) = .next t ∧ t.phase = .idle) ∧
    (∃ t, step (withMoves [.startBatch [] []]) = .next t ∧ t.phase = .idle) ∧
    (∃ t, step (withMoves [.writePad none]) = .next t ∧ t.phase = .idle) ∧
    (∃ t, step (withMoves [.writeOpc 0b111#3]) = .next t ∧ t.phase = .idle) ∧
    (∃ t, step { withMoves [.answer .done] with abandoned := 1 } = .next t ∧ t.phase = .idle) ∧
    (∃ t, step { faultedState [.batchMove] with batch := .running ⟨[⟨12, ops 0 0 0 []⟩], [], 0, 0, [], true⟩ } = .next t ∧
      t.phase = .faulted) ∧
    ∃ t, step (withMoves [.reset]) = .next t ∧ t.phase = .idle :=
  ⟨⟨_, rfl, rfl⟩, ⟨_, rfl, rfl⟩, ⟨_, rfl, rfl⟩, ⟨_, rfl, rfl⟩, ⟨_, rfl, rfl⟩, ⟨_, rfl, rfl⟩, ⟨_, rfl, rfl⟩, ⟨_, rfl, rfl⟩, ⟨_, rfl, rfl⟩, ⟨_, rfl, rfl⟩, ⟨_, rfl, rfl⟩, ⟨_, rfl, rfl⟩,
    ⟨_, rfl, rfl⟩, _, rfl, rfl⟩

theorem witness_RdataWrittenOnlyByAGoodRead :
    (∃ t, step (readInFlight [.answer (.bytes [1, 2, 3, 4])]) = .next t ∧
      t.rdata ≠ (readInFlight [.answer (.bytes [1, 2, 3, 4])]).rdata) ∧
    ∃ t, step (readInFlight [.reset]) = .next t ∧ t.rdata ≠ (readInFlight [.reset]).rdata :=
  ⟨⟨_, rfl, by decide⟩, _, rfl, by decide⟩

theorem witness_OneCallPerTransaction :
    ∃ t, step (withMoves [.present ⟨2, ops 3 5 1 []⟩]) = .next t ∧ t.calls ≠ (withMoves [.present ⟨2, ops 3 5 1 []⟩]).calls :=
  ⟨_, rfl, by decide⟩

theorem witness_NothingInFlightChanges :
    (writeInFlight [.answer .done]).phase.waiting = true ∧ (∃ t, step (writeInFlight [.answer .done]) = .next t) ∧
    (readInFlight [.reset]).phase.waiting = true ∧ ∃ t, step (readInFlight [.reset]) = .next t :=
  ⟨rfl, ⟨_, rfl⟩, rfl, _, rfl⟩

theorem witness_CfgChangesOnlyInIdle :
    (∃ t, step (withMoves [.writePad none]) = .next t ∧ t.cfg ≠ (withMoves [.writePad none]).cfg) ∧
    (∃ t, step (withMoves [.writeOpc 0b111#3]) = .next t ∧ t.cfg ≠ (withMoves [.writeOpc 0b111#3]).cfg) ∧
    ∃ t, step { withMoves [.reset] with cfg := ⟨none, 0b011#3⟩ } = .next t ∧ t.cfg ≠ ⟨none, 0b011#3⟩ :=
  ⟨⟨_, rfl, by decide⟩, ⟨_, rfl, by decide⟩, _, rfl, by decide⟩

theorem witness_FaultedIsLeftOnlyByReset :
    (faultedState [.reset]).phase = .faulted ∧ (∃ t, step (faultedState [.reset]) = .next t) ∧
    (faultedState [.batchMove]).phase = .faulted ∧
    ∃ t, step { faultedState [.batchMove] with batch := .running ⟨[⟨12, ops 0 0 0 []⟩], [], 0, 0, [], true⟩ } = .next t :=
  ⟨rfl, ⟨_, rfl⟩, rfl, _, rfl⟩

/-- Only a state that no run reaches has code 6 or 7 with a step other than a reset. -/
theorem witness_DefensiveErrorsAreUnreachable :
    ∃ t, step { withMoves [.startBatch [] []] with status := ⟨.range, 0, .sa, 0, .upTo 15, 16⟩ } = .next t ∧
      t.status.code = .range := ⟨_, rfl, rfl⟩

theorem witness_ResetWorksInEveryPhase :
    (readInFlight [.reset]).inputs = [.reset] ∧ (readInFlight [.reset]).phase.waiting = true ∧
    (faultedState [.reset]).inputs = [.reset] ∧ (faultedState [.reset]).phase.waiting = false := ⟨rfl, rfl, rfl, rfl⟩

theorem witness_LateAnswerIsDiscarded :
    ({ withMoves [.answer (.bytes [1])] with abandoned := 1 } : State).phase = .idle ∧
    0 < ({ withMoves [.answer (.bytes [1])] with abandoned := 1 } : State).abandoned ∧
    ({ withMoves [.answer (.bytes [1])] with abandoned := 1 } : State).inputs = [.answer (.bytes [1])] :=
  ⟨rfl, by decide, rfl⟩

theorem witness_ConfigurationWrites :
    (withMoves [.writePad none]).phase = .idle ∧ (withMoves [.writePad none]).inputs = [.writePad none] ∧
    (withMoves [.writePad (some 162)]).inputs = [.writePad (some 162)] ∧ 162 ≤ 162 ∧
    (withMoves [.writePad (some 161)]).inputs = [.writePad (some 161)] ∧ 161 < 162 ∧
    (withMoves [.writeOpc 0b111#3]).inputs = [.writeOpc 0b111#3] ∧ 0b111#3 ≠ 0b010#3 ∧
    (withMoves [.writeOpc 0b010#3]).inputs = [.writeOpc 0b010#3] := by decide

theorem inv_of_moves (es : List Event) : Inv (withMoves es) where
  cfg_legal := rfl
  rdata_short := Nat.zero_le 16
  status_quiet := fun _ => ⟨rfl, rfl, rfl, rfl⟩
  no_range := by intro h; cases h
  no_misuse := by intro h; cases h
  faulted_iff := by constructor <;> intro h <;> cases h
  write_in_flight := by intro h; cases h
  read_in_flight := by intro h; cases h
  calls_made := Nat.le_refl 0
  batch_inv := by intro b h; cases h
  batch_between := by intro b h; cases h

theorem witness_StepKeepsTheInvariant :
    Inv (withMoves [.present ⟨2, ops 3 5 1 []⟩]) ∧ ∃ t, step (withMoves [.present ⟨2, ops 3 5 1 []⟩]) = .next t :=
  ⟨inv_of_moves _, _, rfl⟩

/-- A state of a transaction in progress meets the invariant too. -/
theorem witness_InvariantRulesOutFaults : Inv (writeInFlight [.answer .done]) where
  cfg_legal := rfl
  rdata_short := by decide
  status_quiet := fun _ => ⟨rfl, rfl, rfl, rfl⟩
  no_range := by decide
  no_misuse := by decide
  faulted_iff := by decide
  write_in_flight := fun _ => ⟨rfl, .regWrite, ops 3 5 0 [0x7A], rfl, rfl, rfl, rfl, rfl⟩
  read_in_flight := fun h => absurd h (by decide)
  calls_made := by decide
  batch_inv := by intro b h; cases h
  batch_between := by intro b h; cases h

/-- A batch of one write and one read at a position, with the sequencer's move to come. -/
def batchAt (i j : Nat) (performing : Bool) (code : StatusCode) (p : Phase) : State :=
  { withMoves [.batchMove] with
    phase := p, status := { Status.reset with code := code }
    batch := .running ⟨[encodeRequest (.regWrite (ops 3 5 0 [0x7A]))], [encodeRequest (.regRead (ops 3 5 1 []))], i, j, [], performing⟩ }

theorem witness_BatchPresentsWritesThenReads :
    (batchAt 0 0 false .none .idle).phase = .idle ∧ (batchAt 0 0 false .none .idle).inputs = [.batchMove] ∧
    defensive (batchAt 0 0 false .none .idle) = false ∧ defensive (batchAt 1 1 false .unsupportedCommand .faulted) = false ∧
    [encodeRequest (.regWrite (ops 3 5 0 [0x7A]))][0]? = some (encodeRequest (.regWrite (ops 3 5 0 [0x7A]))) ∧
    [encodeRequest (.regWrite (ops 3 5 0 [0x7A]))].length ≤ 1 ∧
    [encodeRequest (.regRead (ops 3 5 1 []))][0]? = some (encodeRequest (.regRead (ops 3 5 1 []))) ∧
    [encodeRequest (.regRead (ops 3 5 1 []))].length ≤ 1 := ⟨rfl, rfl, rfl, rfl, rfl, by decide, rfl, by decide⟩

theorem witness_BatchStopsAtTheFirstError :
    ((batchAt 0 0 true .validation .idle).phase = .idle ∧ (batchAt 0 0 true .validation .idle).status.code ≠ .ok) ∧
    ((batchAt 0 0 true .unsupportedCommand .faulted).phase = .faulted ∧
      (batchAt 0 0 true .unsupportedCommand .faulted).status.code = .unsupportedCommand) ∧
    ((batchAt 0 0 true .ok .idle).phase = .idle ∧ (batchAt 0 0 true .ok .idle).status.code = .ok ∧ 0 < 1) ∧
    (batchAt 1 0 true .ok .idle).status.code = .ok ∧ (batchAt 1 0 true .ok .idle).inputs = [.batchMove] ∧ 1 ≤ 1 := by
  decide

theorem witness_MalformedBatchIsRefused :
    defensive State.reset = false ∧ defensive (faultedState []) = false ∧ State.reset.batch.isRunning = false ∧
    (decodeRequest ⟨2, ops 3 5 1 []⟩ = .ok (.regRead (ops 3 5 1 [])) ∧ Spec.writes (Instr.regRead (ops 3 5 1 [])).kind = false) ∧
    (decodeRequest ⟨1, ops 3 5 0 [0]⟩ = .ok (.regWrite (ops 3 5 0 [0])) ∧
      Spec.writes (Instr.regWrite (ops 3 5 0 [0])).kind = true) ∧
    decodeRequest ⟨12, ops 3 5 0 [0]⟩ = .error (.unmappedKind 12) := ⟨rfl, rfl, rfl, ⟨rfl, rfl⟩, ⟨rfl, rfl⟩, rfl⟩

theorem witness_BatchRunsInOrderToCompletion :
    State.reset.phase = .idle ∧ State.reset.batch.isRunning = false ∧ cfgLegal State.reset.cfg = true ∧
    (∀ i ∈ [Instr.regWrite (ops 3 5 0 [0x7A])], Spec.writes i.kind = true ∧ validate i.kind i.access = .ok ()) ∧
    (∀ i ∈ [Instr.regRead (ops 3 5 1 [])], Spec.writes i.kind = false ∧ validate i.kind i.access = .ok ()) ∧
    List.Forall₂ (fun i c => i.access.byteCount ≤ c.length) [Instr.regRead (ops 3 5 1 [])] [[(0x7A : Byte)]] :=
  ⟨rfl, rfl, rfl, by simp only [List.mem_singleton, forall_eq]; exact ⟨rfl, rfl⟩,
    by simp only [List.mem_singleton, forall_eq]; exact ⟨rfl, rfl⟩, .cons (by decide) .nil⟩

theorem witness_InstancesAreIndependent :
    ∃ ts, systemStep 1 [State.reset, withMoves [.writePad none]] = .next ts := ⟨_, rfl⟩

/-- 45_batch.md R194: after an unmapped code, and with a transaction in progress. -/
theorem witness_EmptyBatchCompletesInEveryPhase :
    (defensive (faultedState []) = false ∧ (faultedState []).batch.isRunning = false) ∧
    (defensive (readInFlight []) = false ∧ (readInFlight []).batch.isRunning = false) ∧
    (faultedState [.startBatch [] [], .batchMove]).inputs = [.startBatch [] [], .batchMove] := ⟨⟨rfl, rfl⟩, ⟨rfl, rfl⟩, rfl⟩

theorem witness_HostMovesAreTakenInOrder :
    (∃ t, step (withMoves [.present ⟨2, ops 3 5 1 []⟩, .writePad none]) = .next t ∧
      t.calls ≠ (withMoves [.present ⟨2, ops 3 5 1 []⟩, .writePad none]).calls ∧ t.inputs = [.writePad none]) ∧
    (∃ t, step (readInFlight [.present ⟨2, ops 3 5 1 []⟩, .writePad none, .answer .fail]) = .next t ∧
      t.inputs = [.present ⟨2, ops 3 5 1 []⟩, .writePad none]) ∧
    ∃ t, step (faultedState [.startBatch [] []]) = .next t ∧ t.inputs = [] :=
  ⟨⟨_, rfl, by decide, rfl⟩, ⟨_, rfl, rfl⟩, _, rfl, rfl⟩

/-- Before the first request, and after an unmapped code: a step that writes `REQ`, one that leaves it, and none. -/
theorem witness_ReqIsNotReadBeforeARequestIsAccepted :
    (∃ t, step (withMoves [.present ⟨2, ops 3 5 1 []⟩]) = .next t) ∧
    (∃ t, step (withMoves [.writePad none]) = .next t) ∧
    (withMoves []).phase.waiting = false ∧ (withMoves []).reqValid = false ∧ (∀ t, step (withMoves []) ≠ .next t) ∧
    (faultedState [.reset]).phase.waiting = false ∧ ∃ t, step (faultedState [.reset]) = .next t :=
  ⟨⟨_, rfl⟩, ⟨_, rfl⟩, rfl, rfl, (fun _ h => by cases h), rfl, _, rfl⟩

end Sys2Proof.Tests
end

section
/-! PROOFS. The invariant (O48, O49): one lemma for each way a step can end, then the step by its inversion `StepTo`. -/

namespace Sys2Proof.Machine

open Sys2Proof

/-- The values of `STATUS` that go with `IDLE` under the invariant: no detail without an error, and none of the errors
that leave `FAULTED` (10_state.md R24, 60_exceptions.md R210). -/
structure Status.FitsIdle (st : Status) : Prop where
  quiet : st.quiet
  no_range : st.code ≠ .range
  no_misuse : st.code ≠ .buildMisuse
  no_unsupported : st.code ≠ .unsupportedCommand

theorem Status.reset_fitsIdle : Status.reset.FitsIdle :=
  ⟨fun _ => ⟨rfl, rfl, rfl, rfl⟩, nofun, nofun, nofun⟩

theorem okStatus_fitsIdle (k : BitVec 4) : (okStatus k).FitsIdle :=
  ⟨fun _ => ⟨rfl, rfl, rfl, rfl⟩, nofun, nofun, nofun⟩

/-- An error that leaves the framer in `IDLE` writes a `STATUS` that goes with it. -/
theorem errorStatus_fitsIdle (k : BitVec 4) {e : FramerError} (he : errorPhase e = .idle) :
    (errorStatus k e).FitsIdle := by
  cases e with
  | validation | captureShortfall | collaborator =>
    exact ⟨by simp [Status.quiet, errorStatus], nofun, nofun, nofun⟩
  | unsupportedCommand | range | buildMisuse => cases he

/-- The validator's errors leave `IDLE` (60_exceptions.md R210, R212). -/
theorem errorPhase_of_validate_error {k : Kind} {a : RegisterAccess} {e : FramerError} (h : validate k a = .error e) :
    errorPhase e = .idle := by
  obtain ⟨_, _, _, _, rfl⟩ := validate_error k a e h
  rfl

theorem Inv.status_fitsIdle {s : State} (h : Inv s) (hp : s.phase = .idle) : s.status.FitsIdle :=
  ⟨h.status_quiet, h.no_range, h.no_misuse, fun hc => by simpa [hp] using h.faulted_iff.mpr hc⟩

/-- The calls owed an answer without the outstanding one were made. -/
theorem Inv.abandoned_le {s : State} (h : Inv s) : s.abandoned ≤ s.calls.length :=
  (Nat.le_add_right _ _).trans h.calls_made

/-- In `IDLE` the invariant asks for nothing in flight. -/
theorem Inv.of_idle {s : State} (hp : s.phase = .idle) (hcfg : cfgLegal s.cfg = true) (hdata : s.rdata.length ≤ 16)
    (hst : s.status.FitsIdle) (hcalls : s.abandoned ≤ s.calls.length) (hbatch : ∀ b, s.batch = .running b → b.Inv) :
    Inv s where
  cfg_legal := hcfg
  rdata_short := hdata
  status_quiet := hst.quiet
  no_range := hst.no_range
  no_misuse := hst.no_misuse
  faulted_iff := by simp [hp, hst.no_unsupported]
  write_in_flight := by simp [hp]
  read_in_flight := by simp [hp]
  calls_made := by simpa [hp, Phase.waiting] using hcalls
  batch_inv := hbatch
  batch_between := fun _ _ _ _ => hp

/-- The moves to come do not matter to the invariant, nor does the batch beyond its own clauses. -/
theorem Inv.withBatch {s : State} (h : Inv s) (rest : List Event) {bt : Batch} (hbatch : ∀ b, bt = .running b → b.Inv)
    (hbetween : ∀ b, bt = .running b → b.performing = false → 0 < b.i ∨ 0 < b.j → s.phase = .idle) :
    Inv { s with inputs := rest, batch := bt } where
  cfg_legal := h.cfg_legal
  rdata_short := h.rdata_short
  status_quiet := h.status_quiet
  no_range := h.no_range
  no_misuse := h.no_misuse
  faulted_iff := h.faulted_iff
  write_in_flight := fun hp => ⟨(h.write_in_flight hp).latched, (h.write_in_flight hp).request⟩
  read_in_flight := fun hp => ⟨(h.read_in_flight hp).latched, (h.read_in_flight hp).request⟩
  calls_made := h.calls_made
  batch_inv := hbatch
  batch_between := hbetween

/-- A batch just started is at its first position (45_batch.md R190). -/
theorem BatchRun.inv_of_started {ws rs : List Request} (hok : batchOk ws rs = true) :
    BatchRun.Inv { writes := ws, reads := rs, i := 0, j := 0, results := [], performing := false } where
  lists := hok
  write_position := Nat.zero_le _
  read_position := Nat.zero_le _
  writes_first := nofun
  results_so_far := rfl
  performing_one := nofun

/-- Once the performed request's transaction is over, only `FAULTED` is no `IDLE`, and there `STATUS` is no `OK`. -/
theorem Inv.idle_of_ok {s : State} (h : Inv s) (hw : s.phase.waiting = false) (hok : s.status.code = .ok) :
    s.phase = .idle := by
  cases hp : s.phase with
  | idle => rfl
  | faulted => simpa [hok] using h.faulted_iff.mp hp
  | waitTx => simp [hp, Phase.waiting] at hw
  | waitCap => simp [hp, Phase.waiting] at hw

/-- Looking at an outcome keeps the invariant (45_batch.md R190, R192). -/
theorem Inv.batchLook {s : State} {b : BatchRun} (h : Inv s) (rest : List Event) (hb : s.batch = .running b)
    (hp : b.performing = true) (hw : s.phase.waiting = false) : Inv (batchLook b { s with inputs := rest }) := by
  rw [batchLook_eq]
  by_cases hok : s.status.code = .ok
  · simp only [hok, if_true]
    refine h.withBatch rest ?_ fun _ _ _ _ => h.idle_of_ok hw hok
    rintro _ ⟨⟩
    exact (h.batch_inv b hb).advance hp _
  · simp only [hok, if_false]
    exact h.withBatch rest nofun nofun

/-- In `IDLE` the invariant says nothing of `REQ`. -/
theorem Inv.latch {s : State} (h : Inv s) (hp : s.phase = .idle) (r : Request) : Inv (s.latch r) :=
  .of_idle hp h.cfg_legal h.rdata_short (h.status_fitsIdle hp) h.abandoned_le h.batch_inv

/-- A transaction that ends without error keeps the invariant (40_transaction.md R101). -/
theorem Inv.finishOk {s : State} (h : Inv s) (k : BitVec 4) : Inv (s.finishOk k) :=
  .of_idle rfl h.cfg_legal h.rdata_short (okStatus_fitsIdle k) h.abandoned_le h.batch_inv

/-- A transaction that ends in `IDLE` with an error keeps the invariant (60_exceptions.md R219). -/
theorem Inv.takeError {s : State} (h : Inv s) (k : BitVec 4) {e : FramerError} (he : errorPhase e = .idle) :
    Inv (s.takeError k e) :=
  .of_idle he h.cfg_legal h.rdata_short (errorStatus_fitsIdle k he) h.abandoned_le h.batch_inv

/-- The phase of an accepted request waits for its answer. -/
theorem waiting_of_direction (w : Bool) : (if w then Phase.waitTx else Phase.waitCap).waiting = true := by
  cases w <;> rfl

/-- A request just accepted is in flight (40_transaction.md R90). -/
theorem inFlight_of_accepted {s : State} {i : Instr} {f : Bits} {w : Bool} {p : Phase}
    (hv : validate i.kind i.access = .ok ()) (hf : buildFrame i.kind i.access s.cfg = .ok f)
    (hw : (desc i.kind).isWrite = w) :
    InFlight w (((s.latch (encodeRequest i)).loadFrame f).callOut (callFor i.kind i.access f) p) :=
  ⟨rfl, i.kind, i.access, rfl, hw, hv, hf, by simp⟩

/-- An accepted request puts the framer in a waiting phase with its transaction in flight; a batch that runs then waits
for the outcome (40_transaction.md R90, 45_batch.md R190). -/
theorem Inv.accepted {s : State} {i : Instr} {f : Bits} (h : Inv s) (hp : s.phase = .idle)
    (hb : ∀ b, s.batch = .running b → b.performing = true) (hv : validate i.kind i.access = .ok ())
    (hf : buildFrame i.kind i.access s.cfg = .ok f) :
    Inv (((s.latch (encodeRequest i)).loadFrame f).callOut (callFor i.kind i.access f)
      (if (desc i.kind).isWrite then .waitTx else .waitCap)) where
  cfg_legal := h.cfg_legal
  rdata_short := h.rdata_short
  status_quiet := h.status_quiet
  no_range := h.no_range
  no_misuse := h.no_misuse
  faulted_iff := by
    have := (h.status_fitsIdle hp).no_unsupported
    cases hw : (desc i.kind).isWrite <;> simpa using this
  write_in_flight := fun hq => inFlight_of_accepted hv hf (by
    cases hw : (desc i.kind).isWrite <;> simp [hw] at hq ⊢)
  read_in_flight := fun hq => inFlight_of_accepted hv hf (by
    cases hw : (desc i.kind).isWrite <;> simp [hw] at hq ⊢)
  calls_made := by simpa [waiting_of_direction] using h.abandoned_le
  batch_inv := h.batch_inv
  batch_between := fun b hr hn => by simp [hb b hr] at hn

/-- An unmapped code leaves `FAULTED` with its error; a batch that runs then waits for the outcome (60_exceptions.md
R213). -/
theorem Inv.unmapped {s : State} (h : Inv s) (hb : ∀ b, s.batch = .running b → b.performing = true) (r : Request)
    (k c : BitVec 4) : Inv ((s.latch r).takeError k (.unsupportedCommand c)) where
  cfg_legal := h.cfg_legal
  rdata_short := h.rdata_short
  status_quiet := by simp [Status.quiet, errorStatus]
  no_range := nofun
  no_misuse := nofun
  faulted_iff := iff_of_true rfl rfl
  write_in_flight := nofun
  read_in_flight := nofun
  calls_made := h.abandoned_le
  batch_inv := h.batch_inv
  batch_between := fun b hr hn => by simp [hb b hr] at hn

/-- A validated request's byte count is at most 16, whatever its kind (40_transaction.md R96). -/
theorem byteCountOf_le_of_validate {k : Kind} {a : RegisterAccess} (h : validate k a = .ok ()) :
    byteCountOf k a ≤ 16 := by
  obtain ⟨-, -, ⟨-, hb⟩, -⟩ := (validate_eq_ok k a).mp h
  have : (desc k).bcHi ≤ 16 := by cases k <;> decide
  omega

/-- A read in flight asked for at most 16 bytes. -/
theorem InFlight.byteCount_le {s : State} (h : InFlight false s) : s.req.access.byteCount ≤ 16 := by
  obtain ⟨-, k, a, hr, hw, hv, -⟩ := h
  have := byteCountOf_le_of_validate hv
  simpa [byteCountOf, hw, hr] using this

/-- A capture ends the read in flight within the invariant (44_capture.md R170, R172). -/
theorem Inv.captured {s t : State} {c : List Byte} (h : Inv s) (hp : s.phase = .waitCap)
    (ht : endRead c s = .next t) : Inv t := by
  obtain ⟨k, hk, ⟨-, rfl⟩ | ⟨-, rfl⟩⟩ := endRead_cases ht
  · have hn : (c.take (byteCountOf k s.req.access)).length ≤ 16 := by
      simp [byteCountOf_readKind hk, (h.read_in_flight hp).byteCount_le]
    exact .of_idle rfl h.cfg_legal hn (okStatus_fitsIdle _) h.abandoned_le h.batch_inv
  · exact h.takeError _ rfl

/-- A reset keeps the invariant: the outstanding call becomes an abandoned one (70_reset_and_hazards.md R240). -/
theorem Inv.hardReset {s : State} (h : Inv s) : Inv s.hardReset := by
  have hcount : s.hardReset.abandoned = s.abandoned + if s.phase.waiting then 1 else 0 := by
    rw [State.hardReset_abandoned]; split <;> rfl
  exact .of_idle rfl rfl (Nat.zero_le _) Status.reset_fitsIdle (hcount.trans_le h.calls_made) h.batch_inv

theorem cfgLegal_iff {c : Cfg} : cfgLegal c = true ↔ padLegal c.padExtWrite = true ∧ opcLegal c.opcRegread = true := by
  simp [cfgLegal]

theorem Inv.pad_legal {s : State} (h : Inv s) : padLegal s.cfg.padExtWrite = true := (cfgLegal_iff.mp h.cfg_legal).1

theorem Inv.opc_legal {s : State} (h : Inv s) : opcLegal s.cfg.opcRegread = true := (cfgLegal_iff.mp h.cfg_legal).2

/-- A legal configuration written in `IDLE` keeps the invariant (10_state.md R25). -/
theorem Inv.withCfg {s : State} {c : Cfg} (h : Inv s) (hp : s.phase = .idle) (hc : cfgLegal c = true) :
    Inv { s with cfg := c } :=
  .of_idle hp hc h.rdata_short (h.status_fitsIdle hp) h.abandoned_le h.batch_inv

/-- An instruction keeps the invariant when a batch that runs is the one that presents it. -/
theorem Inv.exec {s t : State} {i : Instr} (h : Inv s) (hb : ∀ b, s.batch = .running b → b.performing = true)
    (ht : exec i s = .next t) : Inv t := by
  obtain ⟨hp, ⟨e, hv, rfl⟩ | ⟨f, hv, hf, rfl⟩⟩ := exec_cases ht
  · exact (h.latch hp _).takeError _ (errorPhase_of_validate_error hv)
  · exact h.accepted hp hb hv hf

/-- Taking a move off the coming moves keeps the invariant. -/
theorem Inv.withInputs {s : State} (h : Inv s) (rest : List Event) : Inv { s with inputs := rest } :=
  h.withBatch rest h.batch_inv h.batch_between

/-- Presenting a request, before the framer looks at it, keeps the invariant. -/
theorem Inv.presented {s : State} {rest : List Event} {bt : Batch} {r : Request} (h : Inv s)
    (hb : Presented s rest bt r) : Inv { s with inputs := rest, batch := bt } :=
  h.withBatch rest (hb.batch_inv h.batch_inv) fun b hr hn => by simp [hb.performing hr] at hn

/-- Everything a step can do keeps the invariant. -/
theorem Inv.stepTo {s t : State} (h : Inv s) (hs : StepTo s t) : Inv t := by
  cases hs with
  | startedBatch rest ws rs _ _ hok =>
    refine h.withBatch rest ?_ ?_
    · rintro _ ⟨⟩; exact BatchRun.inv_of_started hok
    · rintro _ ⟨⟩; simp
  | lookedAtOutcome rest b _ hb hp hw => exact h.batchLook rest hb hp hw
  | finishedBatch rest b _ _ _ _ => exact h.withBatch rest nofun nofun
  | executed rest bt i _ hb hx => exact (h.presented hb).exec (fun _ => hb.performing) hx
  | unmapped rest bt r hb _ _ => exact (h.presented hb).unmapped (fun _ => hb.performing) _ _ _
  | writeDone rest _ _ => exact (h.withInputs rest).finishOk _
  | failed rest _ _ => exact (h.withInputs rest).takeError _ rfl
  | captured rest c _ _ hp hx => exact (h.withInputs rest).captured hp hx
  | discarded rest a _ hp _ =>
    exact .of_idle hp h.cfg_legal h.rdata_short (h.status_fitsIdle hp) ((Nat.sub_le _ _).trans h.abandoned_le)
      h.batch_inv
  | padWritten rest v _ hp hv => exact (h.withInputs rest).withCfg hp (cfgLegal_iff.mpr ⟨hv, h.opc_legal⟩)
  | opcWritten rest v _ hp hv => exact (h.withInputs rest).withCfg hp (cfgLegal_iff.mpr ⟨h.pad_legal, hv⟩)
  | wasReset rest _ => exact (h.withInputs rest).hardReset

/-- Settles O49: the inversion of the step, and the invariant kept in each of its cases. -/
theorem stepKeepsTheInvariant : Obligations.StepKeepsTheInvariant :=
  fun _ _ h hs => h.stepTo (stepTo_of_step hs)

/-- Settles O48. -/
theorem resetMeetsTheInvariant : Obligations.ResetMeetsTheInvariant :=
  Inv.of_idle rfl rfl (Nat.zero_le _) Status.reset_fitsIdle (Nat.zero_le _) nofun

end Sys2Proof.Machine
end

section
/-! PROOFS. R23's table (O37) and what it says of the single registers (O38, O40, O41): the statements' vocabulary told
in the model's own, then every step by its inversion `StepTo`. -/

namespace Sys2Proof.Machine

open Sys2Proof

/-! The vocabulary of the statements. -/

theorem writes_eq_isWrite (k : Kind) : Spec.writes k = (desc k).isWrite := by cases k <;> rfl

theorem greatestAddress_eq_addrMax (k : Kind) : Spec.greatestAddress k = addrMax k := by cases k <;> rfl

theorem greatestCount_eq_bcHi (k : Kind) : Spec.greatestCount k = (desc k).bcHi := by cases k <;> rfl

theorem bcLo_eq_one (k : Kind) : (desc k).bcLo = 1 := by cases k <;> rfl

theorem count_eq_byteCountOf (i : Instr) : Spec.count i = byteCountOf i.kind i.access := by
  simp [Spec.count, byteCountOf, writes_eq_isWrite]

theorem call_eq_callFor (i : Instr) (f : Bits) : Spec.call i f = callFor i.kind i.access f := by
  simp [Spec.call, callFor, writes_eq_isWrite, count_eq_byteCountOf]

/-- With one payload byte, as RegZeroWrite's count asks, the bound on it is the validator's (40_transaction.md R97). -/
theorem reg0Ok_iff_of_countOk {i : Instr} (hc : Spec.countOk i) :
    Spec.reg0Ok i ↔ (i.kind = .regZeroWrite → firstPayload i.access ≤ 0x7F) := by
  refine forall_congr' fun hk => ?_
  have hlen : i.access.payload.length = 1 := by
    have : 1 ≤ i.access.payload.length ∧ i.access.payload.length ≤ 1 := by
      simpa [Spec.countOk, Spec.count, Spec.writes, Spec.greatestCount, hk] using hc
    omega
  obtain ⟨d, hd⟩ := List.length_eq_one_iff.mp hlen
  simp [firstPayload, hd]

/-- The validator passes exactly the operands in the ranges of 40_transaction.md R94 to R97. -/
theorem validate_ok_iff_inRange (i : Instr) :
    validate i.kind i.access = .ok () ↔
      i.access.sa ≤ 0xF ∧ Spec.addressOk i ∧ Spec.countOk i ∧ Spec.reg0Ok i := by
  have hc : Spec.countOk i ↔ (desc i.kind).bcLo ≤ byteCountOf i.kind i.access ∧
      byteCountOf i.kind i.access ≤ (desc i.kind).bcHi := by
    rw [Spec.countOk, count_eq_byteCountOf, greatestCount_eq_bcHi, bcLo_eq_one]
  rw [validate_eq_ok, Spec.addressOk, greatestAddress_eq_addrMax, ← hc]
  exact and_congr_right fun _ => and_congr_right fun _ => and_congr_right fun h => (reg0Ok_iff_of_countOk h).symm

theorem not_inRange_of_validate_error {i : Instr} {e : FramerError} (h : validate i.kind i.access = .error e) :
    ¬ (i.access.sa ≤ 0xF ∧ Spec.addressOk i ∧ Spec.countOk i ∧ Spec.reg0Ok i) := by
  rw [← validate_ok_iff_inRange, h]; nofun

/-- Every error of the validator has the code VALIDATION. -/
theorem errorStatus_code_of_validate_error {k : Kind} {a : RegisterAccess} {e : FramerError} (c : BitVec 4)
    (h : validate k a = .error e) : (errorStatus c e).code = .validation := by
  obtain ⟨_, _, _, _, rfl⟩ := validate_error k a e h
  rfl

/-! The table. -/

/-- A step is a row of R23's table that leaves the phase, or one of the steps that keep it, or a reset. -/
inductive Listed (s t : State) : Prop where
  | left (hp : t.phase ≠ s.phase) (h : Spec.acceptedByStep s t ∨ Spec.faultedByStep s t ∨ Spec.endedByStep s t)
  | kept (hp : t.phase = s.phase) (h : Spec.keptByStep s t)
  | wasReset (h : Spec.resetByStep s t)

/-- A presented request of a mapped kind is accepted by R23's rows from `IDLE`, or rejected there. -/
theorem listed_of_exec {s t : State} {rest : List Event} {bt : Batch} {i : Instr}
    (hb : Presented s rest bt (encodeRequest i)) (h : exec i { s with inputs := rest, batch := bt } = .next t) :
    Listed s t := by
  obtain ⟨hp, ⟨e, hv, rfl⟩ | ⟨f, hv, hf, rfl⟩⟩ := exec_cases h
  · have he := errorPhase_of_validate_error hv
    refine .kept (he.trans hp.symm) (.inl ⟨hp, i, hb, errorStatus_code_of_validate_error _ hv,
      not_inRange_of_validate_error hv, ?_⟩)
    simp only [State.takeError, State.latch, he]
    rw [show s.phase = .idle from hp]
  · obtain ⟨hsa, haddr, hcount, hreg0⟩ := (validate_ok_iff_inRange i).mp hv
    refine .left ?_ (.inl ⟨hp, i, hb, hsa, haddr, hcount, hreg0, hf, ?_⟩)
    · rw [show s.phase = .idle from hp]
      cases hw : (desc i.kind).isWrite <;> simp
    · rw [call_eq_callFor, writes_eq_isWrite]; rfl

/-- A read in flight that gets its capture leaves `WAIT_CAP` by R23's rows. -/
theorem endedByStep_of_captured {s t : State} {rest : List Event} {c : List Byte}
    (hm : TakenFrom s.inputs (.answer (.bytes c)) rest) (hp : s.phase = .waitCap)
    (h : endRead c { s with inputs := rest } = .next t) : t.phase = .idle ∧ Spec.endedByStep s t := by
  obtain ⟨k, hk, hc⟩ := endRead_cases h
  rw [byteCountOf_readKind hk] at hc
  rcases hc with ⟨hl, rfl⟩ | ⟨hl, rfl⟩
  · exact ⟨rfl, .inr (.inr ⟨hp, c, hm, .inl ⟨hl, rfl⟩⟩)⟩
  · exact ⟨rfl, .inr (.inr ⟨hp, c, hm, .inr ⟨hl, rfl⟩⟩)⟩

theorem Phase.waiting_iff (p : Phase) : p.waiting = true ↔ p = .waitTx ∨ p = .waitCap := by
  cases p <;> simp [Phase.waiting]

/-- A move of the batch sequencer, or its start, touches nothing of the framer (45_batch.md R190). -/
theorem listed_of_batch {s : State} {rest : List Event} {bt : Batch}
    (hm : (∃ ws rs, TakenFrom s.inputs (.startBatch ws rs) rest) ∨ TakenFrom s.inputs .batchMove rest) :
    Listed s { s with inputs := rest, batch := bt } :=
  .kept rfl (.inr (.inr (.inr (.inr ⟨hm, rfl⟩))))

/-- Every step is listed (10_state.md R23). -/
theorem StepTo.listed {s t : State} (h : StepTo s t) : Listed s t := by
  cases h with
  | startedBatch rest ws rs hm _ _ => exact listed_of_batch (.inl ⟨ws, rs, hm⟩)
  | lookedAtOutcome rest b hm _ _ _ =>
    rw [batchLook_eq]; exact listed_of_batch (.inr hm)
  | finishedBatch rest b hm _ _ _ => exact listed_of_batch (.inr hm)
  | executed rest bt i _ hb hx => exact listed_of_exec hb hx
  | unmapped rest bt r hb hp hk =>
    exact .left (by simp [hp, errorPhase]) (.inr (.inl ⟨hp, r, hb, hk, rfl⟩))
  | writeDone rest hm hp => exact .left (by simp [hp]) (.inr (.inr (.inl ⟨hp, hm, rfl⟩)))
  | failed rest hm hp =>
    have hw := (Phase.waiting_iff s.phase).mp hp
    exact .left (by rcases hw with hw | hw <;> simp [hw, errorPhase]) (.inr (.inr (.inr (.inl ⟨hw, hm, rfl⟩))))
  | captured rest c _ hm hp hx =>
    obtain ⟨ht, he⟩ := endedByStep_of_captured hm hp hx
    exact .left (by simp [hp, ht]) (.inr (.inr he))
  | discarded rest a hm hp ha => exact .kept rfl (.inr (.inr (.inr (.inl ⟨hp, ha, ⟨a, hm⟩, rfl⟩))))
  | padWritten rest v hm hp _ => exact .kept rfl (.inr (.inl ⟨hp, v, hm, rfl⟩))
  | opcWritten rest v hm hp _ => exact .kept rfl (.inr (.inr (.inl ⟨hp, v, hm, rfl⟩)))
  | wasReset rest hm => exact .wasReset ⟨hm, rfl⟩

/-- Settles O37: every step is listed, and the list says which of its entries keep the phase. -/
theorem phaseChangesAsListed : Obligations.PhaseChangesAsListed := by
  intro s t h
  rcases (stepTo_of_step h).listed with ⟨hp, hr⟩ | ⟨hp, hk⟩ | hr
  · refine ⟨fun _ => ?_, fun he => absurd he hp⟩
    rcases hr with hr | hr | hr
    · exact .inl hr
    · exact .inr (.inl hr)
    · exact .inr (.inr (.inl hr))
  · exact ⟨fun hn => absurd hp hn, fun _ => .inl hk⟩
  · exact ⟨fun _ => .inr (.inr (.inr hr)), fun _ => .inr hr⟩

/-! Single registers. -/

/-- A reset step, as the statements on single registers put it. -/
theorem wasReset_of_resetByStep {s t : State} (h : Spec.resetByStep s t) :
    Event.reset ∈ s.inputs ∧ t = { s with inputs := t.inputs }.hardReset :=
  ⟨h.1.mem, h.2⟩

theorem rdata_of_acceptedByStep {s t : State} (h : Spec.acceptedByStep s t) : t.rdata = s.rdata := by
  obtain ⟨-, i, -, -, -, -, -, -, ht⟩ := h
  rw [ht]

theorem rdata_of_faultedByStep {s t : State} (h : Spec.faultedByStep s t) : t.rdata = s.rdata := by
  obtain ⟨-, r, -, -, ht⟩ := h
  rw [ht]

theorem rdata_of_keptByStep {s t : State} (h : Spec.keptByStep s t) : t.rdata = s.rdata := by
  rcases h with ⟨-, i, -, -, -, ht⟩ | ⟨-, v, -, ht⟩ | ⟨-, v, -, ht⟩ | ⟨-, -, -, ht⟩ | ⟨-, ht⟩ <;> rw [ht]

/-- An answer writes `RDATA` only as a capture long enough (44_capture.md R174). -/
theorem rdata_of_endedByStep {s t : State} (h : Spec.endedByStep s t) :
    t.rdata = s.rdata ∨
    (s.phase = .waitCap ∧ t.phase = .idle ∧ t.status.code = .ok ∧ t.rdata.length = s.req.access.byteCount) := by
  rcases h with ⟨-, -, ht⟩ | ⟨-, -, ht⟩ | ⟨hp, c, -, ⟨hl, ht⟩ | ⟨-, ht⟩⟩
  · rw [ht]; exact .inl rfl
  · rw [ht]; exact .inl rfl
  · rw [ht]; exact .inr ⟨hp, rfl, rfl, List.length_take_of_le hl⟩
  · rw [ht]; exact .inl rfl

/-- Settles O38: of the listed steps only a good capture and a reset write `RDATA`. -/
theorem rdataWrittenOnlyByAGoodRead : Obligations.RdataWrittenOnlyByAGoodRead := by
  intro s t h hne
  rcases (stepTo_of_step h).listed with ⟨-, hr | hr | hr⟩ | ⟨-, hk⟩ | hr
  · exact absurd (rdata_of_acceptedByStep hr) hne
  · exact absurd (rdata_of_faultedByStep hr) hne
  · exact .inl ((rdata_of_endedByStep hr).resolve_left hne)
  · exact absurd (rdata_of_keptByStep hk) hne
  · exact .inr (wasReset_of_resetByStep hr)

/-- What a call in flight was made from stands (10_state.md R26). -/
def FlightStands (s t : State) : Prop :=
  t.frame = s.frame ∧ t.req = s.req ∧ t.reqValid = s.reqValid ∧ t.cfg = s.cfg

theorem flightStands_of_endedByStep {s t : State} (h : Spec.endedByStep s t) : FlightStands s t := by
  rcases h with ⟨-, -, ht⟩ | ⟨-, -, ht⟩ | ⟨-, c, -, ⟨-, ht⟩ | ⟨-, ht⟩⟩ <;> rw [ht] <;> exact ⟨rfl, rfl, rfl, rfl⟩

/-- Outside `IDLE` a step that keeps the phase is one of the batch sequencer's. -/
theorem flightStands_of_keptByStep {s t : State} (hp : s.phase ≠ .idle) (h : Spec.keptByStep s t) :
    FlightStands s t := by
  rcases h with ⟨hi, -⟩ | ⟨hi, -⟩ | ⟨hi, -⟩ | ⟨hi, -⟩ | ⟨-, ht⟩
  · exact absurd hi hp
  · exact absurd hi hp
  · exact absurd hi hp
  · exact absurd hi hp
  · rw [ht]; exact ⟨rfl, rfl, rfl, rfl⟩

/-- Settles O40: of the listed steps, those outside `IDLE` other than a reset leave all of it alone. -/
theorem nothingInFlightChanges : Obligations.NothingInFlightChanges := by
  intro s t hw h
  have hp : s.phase ≠ .idle := by rintro hp; simp [hp, Phase.waiting] at hw
  rcases (stepTo_of_step h).listed with ⟨-, hr | hr | hr⟩ | ⟨-, hk⟩ | hr
  · exact absurd hr.1 hp
  · exact absurd hr.1 hp
  · exact .inl (flightStands_of_endedByStep hr)
  · exact .inl (flightStands_of_keptByStep hp hk)
  · exact .inr (wasReset_of_resetByStep hr)

/-- An instruction leaves `CFG` alone (20_memory.md R50). -/
theorem exec_cfg {i : Instr} {s t : State} (h : exec i s = .next t) : t.cfg = s.cfg := by
  obtain ⟨-, ⟨e, -, rfl⟩ | ⟨f, -, -, rfl⟩⟩ := exec_cases h <;> rfl

/-- The end of a read leaves `CFG` alone. -/
theorem endRead_cfg {c : List Byte} {s t : State} (h : endRead c s = .next t) : t.cfg = s.cfg := by
  obtain ⟨k, -, ⟨-, rfl⟩ | ⟨-, rfl⟩⟩ := endRead_cases h <;> rfl

/-- Settles O41: of a step's cases only the two configuration writes and a reset write `CFG`. -/
theorem cfgChangesOnlyInIdle : Obligations.CfgChangesOnlyInIdle := by
  intro s t h hne
  cases stepTo_of_step h with
  | padWritten rest v _ hp hv => exact .inl ⟨hp, v, hv, rfl⟩
  | opcWritten rest v _ hp hv => exact .inr (.inl ⟨hp, v, hv, rfl⟩)
  | wasReset rest hm => exact .inr (.inr ⟨hm.mem, rfl⟩)
  | executed rest bt i _ _ hx => exact absurd (exec_cfg hx) hne
  | captured rest c _ _ _ hx => exact absurd (endRead_cfg hx) hne
  | lookedAtOutcome => rw [batchLook_eq] at hne; exact absurd rfl hne
  | startedBatch | finishedBatch | unmapped | writeDone | failed | discarded => exact absurd rfl hne

end Sys2Proof.Machine
end

section
/-! PROOFS. What no step does: fault or stop for a broken state's reason under the invariant (O50), read `REQ` outside a
transaction (O58). -/

namespace Sys2Proof.Machine

open Sys2Proof

/-- What a step is: the move picked, or the outcome of a state without one. -/
theorem step_eq (s : State) :
    (∃ e rest, enabled s e = true ∧ step s = performGuarded e { s with inputs := rest }) ∨ step s = noMove s := by
  unfold step
  split
  · rename_i e rest hp
    exact .inl ⟨e, rest, (pick_spec hp).2, rfl⟩
  · exact .inr rfl

theorem performGuarded_of_not_defensive {s : State} (e : Event) (h : defensive s = false) :
    performGuarded e s = perform e s := by simp [performGuarded, h]

theorem noMove_of_not_defensive {s : State} (h : defensive s = false) : noMove s = .refused .noStep := by
  simp [noMove, h]

/-- The reasons that only a broken state has. -/
def Refusal.ofBrokenState : Refusal → Bool
  | .captureOfNonRead | .notIdle | .notModelled _ => true
  | _ => false

/-- An outcome that is no fault and no refusal for a broken state's reason. -/
def Sound (o : Result) : Prop := (∀ f, o ≠ .fault f) ∧ ∀ r, o = .refused r → r.ofBrokenState = false

theorem sound_next (t : State) : Sound (.next t) := ⟨nofun, nofun⟩

theorem sound_refused {r : Refusal} (h : r.ofBrokenState = false) : Sound (.refused r) :=
  ⟨nofun, by rintro _ ⟨⟩; exact h⟩

/-- In `IDLE` every instruction has a next state: it is accepted or rejected. -/
theorem exec_next_of_idle (i : Instr) {s : State} (hp : s.phase = .idle) : ∃ t, exec i s = .next t := by
  cases hv : validate i.kind i.access with
  | error e => exact ⟨_, exec_rejected i s e hp hv⟩
  | ok =>
    obtain ⟨f, hf⟩ := buildFrame_of_validate i.kind i.access s.cfg hv
    exact ⟨_, exec_accepted i s f hp hv hf⟩

theorem presentRequest_sound (r : Request) {s : State} (hp : s.phase = .idle) : Sound (presentRequest r s) := by
  unfold presentRequest
  split
  · obtain ⟨t, ht⟩ := exec_next_of_idle _ hp
    rw [ht]; exact sound_next t
  · simp only [acceptUnmapped, hp]
    exact sound_next _

theorem writePad_sound (v : Option Nat) {s : State} (hp : s.phase = .idle) : Sound (writePad v s) := by
  simp only [writePad, hp]
  split
  · exact sound_next _
  · exact sound_refused rfl

theorem writeOpc_sound (v : BitVec 3) {s : State} (hp : s.phase = .idle) : Sound (writeOpc v s) := by
  simp only [writeOpc, hp]
  split
  · exact sound_next _
  · exact sound_refused rfl

theorem startBatch_sound (ws rs : List Request) (s : State) : Sound (startBatch ws rs s) := by
  unfold startBatch
  split
  · exact sound_next _
  · exact sound_refused rfl

/-- The sequencer presents a request in `IDLE` only (45_batch.md R190). -/
theorem batchMove_sound {s : State} (h : batchReady s = true) : Sound (batchMove s) := by
  unfold batchMove
  split
  · rename_i b hb
    split
    · exact sound_next _
    · rename_i hnp
      split
      · rename_i q hq
        exact presentRequest_sound q (by simpa [batchReady, hb, hnp, hq] using h)
      · exact sound_next _
  · exact sound_refused rfl

/-- A read in flight names its read kind, so that its capture is decoded (44_capture.md R176). -/
theorem readKind_of_inFlight {s : State} (h : InFlight false s) : ∃ k, readKind s.req = some k := by
  obtain ⟨-, k, a, hr, hw, -⟩ := h
  exact ⟨k, by simp [readKind, hr, hw]⟩

theorem endRead_sound (c : List Byte) {s : State} (hp : s.phase = .waitCap) (h : InFlight false s) :
    Sound (endRead c s) := by
  obtain ⟨k, hk⟩ := readKind_of_inFlight h
  rw [endRead, withReq_of_waiting (by simp [hp, Phase.waiting])]
  simp only [hk]
  split <;> exact sound_next _

theorem takeAnswer_sound (a : Answer) {s : State} (h : s.phase = .waitCap → InFlight false s) :
    Sound (takeAnswer a s) := by
  have hw : ∀ g : Request → State, s.phase.waiting = true → Sound (withReq s fun r => .next (g r)) := fun g hp => by
    rw [withReq_of_waiting hp]; exact sound_next _
  unfold takeAnswer
  split
  · exact hw _ (by simp [Phase.waiting, *])
  · exact hw _ (by simp [Phase.waiting, *])
  · exact sound_refused rfl
  · exact endRead_sound _ ‹_› (h ‹_›)
  · exact hw _ (by simp [Phase.waiting, *])
  · exact sound_refused rfl
  · split
    · exact sound_next _
    · exact sound_refused rfl
  · exact sound_refused rfl

/-- A move that has a step performs soundly when a read in progress is in flight. -/
theorem perform_sound {e : Event} {s : State} (he : enabled s e = true) (h : s.phase = .waitCap → InFlight false s) :
    Sound (perform e s) := by
  cases e with
  | present r => exact presentRequest_sound r (by simp [enabled] at he; exact he.1)
  | writePad v => exact writePad_sound v (by simpa [enabled] using he)
  | writeOpc v => exact writeOpc_sound v (by simpa [enabled] using he)
  | reset => exact sound_next _
  | startBatch ws rs => exact startBatch_sound ws rs s
  | batchMove => exact batchMove_sound he
  | answer a => exact takeAnswer_sound a h

theorem Inv.not_defensive {s : State} (h : Inv s) : defensive s = false := by
  simp [defensive, h.no_range, h.no_misuse]

/-- Whether a move has a step does not depend on the moves to come. -/
theorem enabled_withInputs (s : State) (rest : List Event) (e : Event) :
    enabled { s with inputs := rest } e = enabled s e := by
  cases e <;> rfl

theorem Inv.step_sound {s : State} (h : Inv s) : Sound (step s) := by
  rcases step_eq s with ⟨e, rest, he, hs⟩ | hs
  · have h' := h.withInputs rest
    rw [hs, performGuarded_of_not_defensive e h'.not_defensive]
    exact perform_sound ((enabled_withInputs s rest e).trans he) h'.read_in_flight
  · rw [hs, noMove_of_not_defensive h.not_defensive]
    exact sound_refused rfl

/-- Settles O50: under the invariant no defensive error stands and every move that has a step performs soundly. -/
theorem invariantRulesOutFaults : Obligations.InvariantRulesOutFaults := by
  intro s h
  obtain ⟨hf, hr⟩ := h.step_sound
  exact ⟨hf, fun hc => absurd (hr _ hc) nofun, fun hc => absurd (hr _ hc) nofun, fun _ hc => absurd (hr _ hc) nofun⟩

/-! `REQ` outside a transaction. -/

/-- Two outcomes, of a state and of the same with `q` in `REQ`, that show `REQ` unread: it stands in both, or neither
outcome depends on it. -/
def ReqUnread (q : Request) (s : State) (o o' : Result) : Prop :=
  (∃ t, o = .next t ∧ t.req = s.req ∧ o' = .next { t with req := q }) ∨ o' = o

/-- A presented request overwrites `REQ` whole (10_state.md R21). -/
theorem presentRequest_withReq (r q : Request) (s : State) :
    presentRequest r { s with req := q } = presentRequest r s := by
  have hx : ∀ i, exec i { s with req := q } = exec i s := fun i => by
    rw [exec_eq_accept, exec_eq_accept]; rfl
  unfold presentRequest
  split
  · exact hx _
  · rfl

/-- A branch on a condition leaves `REQ` unread when both of its arms do. -/
theorem ReqUnread.ite {q : Request} {s : State} {c : Prop} [Decidable c] {o1 o2 o1' o2' : Result}
    (h1 : ReqUnread q s o1 o1') (h2 : ReqUnread q s o2 o2') :
    ReqUnread q s (if c then o1 else o2) (if c then o1' else o2') := by
  split
  · exact h1
  · exact h2

/-- A next state that keeps `REQ` leaves it unread when the other run differs in `REQ` alone. -/
theorem ReqUnread.kept {q : Request} {s t : State} (h : t.req = s.req) :
    ReqUnread q s (.next t) (.next { t with req := q }) := .inl ⟨t, rfl, h, rfl⟩

theorem writePad_reqUnread (v : Option Nat) (q : Request) (s : State) :
    ReqUnread q s (writePad v s) (writePad v { s with req := q }) := by
  cases hp : s.phase with
  | idle => simp only [writePad, hp]; exact .ite (.kept rfl) (.inr rfl)
  | waitTx | waitCap | faulted => simp only [writePad, hp]; exact .inr rfl

theorem writeOpc_reqUnread (v : BitVec 3) (q : Request) (s : State) :
    ReqUnread q s (writeOpc v s) (writeOpc v { s with req := q }) := by
  cases hp : s.phase with
  | idle => simp only [writeOpc, hp]; exact .ite (.kept rfl) (.inr rfl)
  | waitTx | waitCap | faulted => simp only [writeOpc, hp]; exact .inr rfl

theorem startBatch_reqUnread (ws rs : List Request) (q : Request) (s : State) :
    ReqUnread q s (startBatch ws rs s) (startBatch ws rs { s with req := q }) :=
  .ite (.kept rfl) (.inr rfl)

theorem batchMove_reqUnread (q : Request) (s : State) :
    ReqUnread q s (batchMove s) (batchMove { s with req := q }) := by
  cases hb : s.batch with
  | running b =>
    simp only [batchMove, hb]
    refine .ite ?_ ?_
    · rw [batchLook_eq, batchLook_eq]; exact .kept rfl
    · cases hc : b.current with
      | some r => exact .inr (presentRequest_withReq r q { s with batch := .running { b with performing := true } })
      | none => exact .kept rfl
  | idle | aborted | completed => simp only [batchMove, hb]; exact .inr rfl

theorem takeAnswer_reqUnread (a : Answer) (q : Request) {s : State} (hw : s.phase.waiting = false) :
    ReqUnread q s (takeAnswer a s) (takeAnswer a { s with req := q }) := by
  cases hp : s.phase with
  | idle => simp only [takeAnswer, hp]; exact .ite (.kept rfl) (.inr rfl)
  | faulted => simp only [takeAnswer, hp]; exact .inr rfl
  | waitTx | waitCap => simp [hp, Phase.waiting] at hw

/-- Outside a transaction no move reads `REQ`. -/
theorem perform_reqUnread (e : Event) (q : Request) {s : State} (hw : s.phase.waiting = false) :
    ReqUnread q s (perform e s) (perform e { s with req := q }) := by
  cases e with
  | present r => exact .inr (presentRequest_withReq r q s)
  | writePad v => exact writePad_reqUnread v q s
  | writeOpc v => exact writeOpc_reqUnread v q s
  | reset => exact .inr rfl
  | startBatch ws rs => exact startBatch_reqUnread ws rs q s
  | batchMove => exact batchMove_reqUnread q s
  | answer a => exact takeAnswer_reqUnread a q hw

/-- Which move has a step does not depend on `REQ`, so the same one is picked. -/
theorem pickFrom_withReq (q : Request) (s : State) (held : Bool) (es : List Event) :
    pickFrom { s with req := q } held es = pickFrom s held es := by
  have he : ∀ e, enabled { s with req := q } e = enabled s e := fun e => by cases e <;> rfl
  induction es generalizing held with
  | nil => rfl
  | cons e es ih => simp only [pickFrom, he, ih]

/-- Outside a transaction no step reads `REQ` (10_state.md R32). -/
theorem step_reqUnread (q : Request) {s : State} (hw : s.phase.waiting = false) :
    ReqUnread q s (step s) (step { s with req := q }) := by
  have hpick : pick { s with req := q } s.inputs = pick s s.inputs := pickFrom_withReq q s false s.inputs
  simp only [step, hpick]
  cases pick s s.inputs with
  | none => exact .inr rfl
  | some m => exact .ite (.inr rfl) (perform_reqUnread m.1 q (s := { s with inputs := m.2 }) hw)

/-- No instruction and no unmapped code ends in a fault. -/
theorem presentRequest_not_fault (r : Request) (s : State) (f : Fault) : presentRequest r s ≠ .fault f := by
  by_cases hp : s.phase = .idle
  · exact (presentRequest_sound r hp).1 f
  · unfold presentRequest
    split
    · rw [exec_not_idle _ s hp]; nofun
    · unfold acceptUnmapped
      split <;> nofun

theorem writePad_not_fault (v : Option Nat) (s : State) (f : Fault) : writePad v s ≠ .fault f := by
  unfold writePad
  split
  · split <;> nofun
  · nofun

theorem writeOpc_not_fault (v : BitVec 3) (s : State) (f : Fault) : writeOpc v s ≠ .fault f := by
  unfold writeOpc
  split
  · split <;> nofun
  · nofun

theorem batchMove_not_fault (s : State) (f : Fault) : batchMove s ≠ .fault f := by
  unfold batchMove
  split
  · split
    · nofun
    · split
      · exact presentRequest_not_fault _ _ f
      · nofun
  · nofun

/-- No move ends in a fault: `withReq` alone has one, and an answer reaches it in a waiting phase only. -/
theorem perform_not_fault (e : Event) (s : State) (f : Fault) : perform e s ≠ .fault f := by
  cases e with
  | present r => exact presentRequest_not_fault r s f
  | writePad v => exact writePad_not_fault v s f
  | writeOpc v => exact writeOpc_not_fault v s f
  | reset => nofun
  | startBatch ws rs => exact (startBatch_sound ws rs s).1 f
  | batchMove => exact batchMove_not_fault s f
  | answer a => exact takeAnswer_not_fault a s f

theorem noMove_ne_reqUnwritten (s : State) : noMove s ≠ .fault .reqUnwritten := by
  unfold noMove
  split
  · split <;> nofun
  · nofun

theorem step_ne_reqUnwritten (s : State) : step s ≠ .fault .reqUnwritten := by
  rcases step_eq s with ⟨e, rest, -, hs⟩ | hs
  · rw [hs, performGuarded]
    split
    · exact noMove_ne_reqUnwritten _
    · exact perform_not_fault _ _ _
  · rw [hs]; exact noMove_ne_reqUnwritten s

/-- Settles O58: no step has the fault of an unread `REQ`, and outside a transaction none reads it. -/
theorem reqIsNotReadBeforeARequestIsAccepted : Obligations.ReqIsNotReadBeforeARequestIsAccepted := by
  refine ⟨step_ne_reqUnwritten, fun s t q hw ht => ?_, fun s q hw hn => ?_, fun s f hw hv => ?_⟩
  · rcases step_reqUnread q hw with ⟨t', hs, hreq, hq⟩ | hq
    · cases ht.symm.trans hs
      exact .inl ⟨hreq, hq⟩
    · exact .inr (hq.trans ht)
  · rcases step_reqUnread q hw with ⟨t, hs, -⟩ | hq
    · exact absurd hs (hn t)
    · exact hq
  · simp [withReq, State.requestAccepted, hw, hv]

end Sys2Proof.Machine
end

section
/-! PROOFS. Single steps: an answer of the wrong kind (O36), configuration writes (O47), the reset values (O44), and a
request in two states of `IDLE` (O26). -/

namespace Sys2Proof.Machine

open Sys2Proof

/-- An answer at the head is taken while a call is outstanding. -/
theorem step_answer_of_waiting {s : State} {a : Answer} {rest : List Event} (hw : s.phase.waiting = true)
    (hi : s.inputs = .answer a :: rest) : step s = takeAnswer a { s with inputs := rest } := by
  have hd : defensive s = false := not_defensive_of_phase (by rintro hp; simp [hp, Phase.waiting] at hw)
  exact step_head hi (by simp [enabled, hw]) (.inl hd)

/-- Settles O36: the answer at the head is taken, and R23 has no row for it. -/
theorem mismatchedAnswerHasNoStep : Obligations.MismatchedAnswerHasNoStep := by
  refine fun s rest c => ⟨fun hp hi => ?_, fun hp hi => ?_⟩ <;>
    · rw [step_answer_of_waiting (by simp [hp, Phase.waiting]) hi]
      simp [takeAnswer, hp]

/-- In `IDLE` a write of `CFG.pad_ext_write` at the head is taken, and done if its value is legal. -/
theorem step_writePad_of_idle {s : State} {v : Option Nat} {rest : List Event} (hp : s.phase = .idle)
    (hi : s.inputs = .writePad v :: rest) :
    step s = if padLegal v then .next { s with inputs := rest, cfg := { s.cfg with padExtWrite := v } }
      else .refused .illegalPadLength := by
  rw [step_head hi (by simp [enabled, hp]) (.inl (not_defensive_of_phase (by simp [hp])))]
  simp only [perform, writePad, hp]

/-- In `IDLE` a write of `CFG.opc_regread` at the head is taken, and done if its value is legal. -/
theorem step_writeOpc_of_idle {s : State} {v : BitVec 3} {rest : List Event} (hp : s.phase = .idle)
    (hi : s.inputs = .writeOpc v :: rest) :
    step s = if opcLegal v then .next { s with inputs := rest, cfg := { s.cfg with opcRegread := v } }
      else .refused .illegalReadOpcode := by
  rw [step_head hi (by simp [enabled, hp]) (.inl (not_defensive_of_phase (by simp [hp])))]
  simp only [perform, writeOpc, hp]

theorem padLegal_some (l : Nat) : padLegal (some l) = true ↔ 162 ≤ l := decide_eq_true_iff

theorem opcLegal_iff (v : BitVec 3) : opcLegal v = true ↔ v ≠ 0b010#3 := decide_eq_true_iff

/-- Settles O47: the write at the head is taken, and what it does turns on whether the value is legal. -/
theorem configurationWrites : Obligations.ConfigurationWrites := by
  intro s rest l v hp
  refine ⟨fun hi => ?_, fun hi hl => ?_, fun hi hl => ?_, fun hi hv => ?_, fun hi hv => ?_⟩
  · exact step_writePad_of_idle hp hi
  · rw [step_writePad_of_idle hp hi, if_pos ((padLegal_some l).mpr hl)]
  · rw [step_writePad_of_idle hp hi, if_neg (by rw [padLegal_some]; omega)]
  · rw [step_writeOpc_of_idle hp hi, if_pos ((opcLegal_iff v).mpr hv)]
  · rw [step_writeOpc_of_idle hp hi, if_neg (by rw [opcLegal_iff]; exact not_not.mpr hv)]

/-- Settles O44: each value stands in the definition of the state after reset. -/
theorem resetValues : Obligations.ResetValues :=
  ⟨rfl, rfl, rfl, rfl, rfl, fun _ => rfl⟩

/-- Settles O26: acceptance depends on the operands, the frame on the operands and `CFG`, and neither on the rest. -/
theorem earlierTransactionsDoNotInfluenceARequest : Obligations.EarlierTransactionsDoNotInfluenceARequest := by
  intro s u i hs hu hc
  cases hv : validate i.kind i.access with
  | error e =>
    refine ⟨_, _, exec_rejected i s e hs hv, exec_rejected i u e hu hv, rfl, rfl, fun _ => rfl, fun hn => ?_⟩
    exact absurd (errorPhase_of_validate_error hv) hn
  | ok =>
    obtain ⟨f, hf⟩ := buildFrame_of_validate i.kind i.access s.cfg hv
    refine ⟨_, _, exec_accepted i s f hs hv hf, exec_accepted i u f hu hv (hc ▸ hf), rfl, rfl, fun hi => ?_,
      fun _ => ⟨rfl, by simp, by simp, by simp⟩⟩
    have hw := waiting_of_direction (desc i.kind).isWrite
    rw [State.callOut_phase] at hi
    rw [hi] at hw
    cases hw

end Sys2Proof.Machine
end

section
/-! PROOFS. The frame of an instruction (O23), the order in which the host's moves are taken (O56), and several
instances (O55). -/

namespace Sys2Proof.Machine

open Sys2Proof

/-- Settles O23: an instruction's next state is that of a rejection, in `IDLE`, or of an acceptance, in a waiting
phase. -/
theorem instructionsLeaveTheRestUnchanged : Obligations.InstructionsLeaveTheRestUnchanged := by
  intro s t i h
  obtain ⟨-, ⟨e, hv, rfl⟩ | ⟨f, -, -, rfl⟩⟩ := exec_cases h
  · have hidle := errorPhase_of_validate_error hv
    exact ⟨rfl, rfl, rfl, rfl, rfl, rfl, rfl, fun _ => ⟨rfl, rfl⟩, fun hn => absurd hidle hn⟩
  · have hbusy : (if (desc i.kind).isWrite then Phase.waitTx else Phase.waitCap) ≠ .idle := by
      cases (desc i.kind).isWrite <;> simp
    exact ⟨rfl, rfl, rfl, rfl, rfl, rfl, rfl, fun hi => absurd hi hbusy, fun _ => ⟨rfl, by simp [call_eq_callFor]⟩⟩

/-! A move's effect leaves the moves to come alone. -/

theorem exec_inputs {i : Instr} {s t : State} (h : exec i s = .next t) : t.inputs = s.inputs := by
  obtain ⟨-, -, -, hinputs, -⟩ := instructionsLeaveTheRestUnchanged s t i h
  exact hinputs

theorem presentRequest_inputs {r : Request} {s t : State} (h : presentRequest r s = .next t) :
    t.inputs = s.inputs := by
  rcases presentRequest_cases h with ⟨i, -, hx⟩ | ⟨-, -, rfl⟩
  · exact exec_inputs hx
  · rfl

theorem batchMove_inputs {s t : State} (h : batchMove s = .next t) : t.inputs = s.inputs := by
  obtain ⟨b, -, ⟨-, rfl⟩ | ⟨-, q, -, hx⟩ | ⟨-, -, rfl⟩⟩ := batchMove_cases h
  · rw [batchLook_eq]
  · rw [presentRequest_inputs hx]
  · rfl

theorem takeAnswer_inputs {a : Answer} {s t : State} (h : takeAnswer a s = .next t) : t.inputs = s.inputs := by
  rcases takeAnswer_cases h with ⟨-, -, rfl⟩ | ⟨-, -, rfl⟩ | ⟨-, c, -, hx⟩ | ⟨-, -, rfl⟩
  · rfl
  · rfl
  · obtain ⟨k, -, ⟨-, rfl⟩ | ⟨-, rfl⟩⟩ := endRead_cases hx <;> rfl
  · rfl

theorem perform_inputs {e : Event} {s t : State} (h : perform e s = .next t) : t.inputs = s.inputs := by
  cases e with
  | present r => exact presentRequest_inputs h
  | writePad v => obtain ⟨-, -, rfl⟩ := writePad_cases h; rfl
  | writeOpc v => obtain ⟨-, -, rfl⟩ := writeOpc_cases h; rfl
  | reset => cases h; rfl
  | startBatch ws rs => obtain ⟨-, rfl⟩ := startBatch_cases h; rfl
  | batchMove => exact batchMove_inputs h
  | answer a => exact takeAnswer_inputs h

/-! The move taken. -/

theorem TakenFrom.perm {es rest : List Event} {e : Event} (h : TakenFrom es e rest) : es.Perm (e :: rest) := by
  obtain ⟨before, after, rfl, rfl⟩ := h
  exact List.perm_middle

/-- The moves before and after tell which one was taken. -/
theorem TakenFrom.unique {es rest : List Event} {e e' : Event} (h : TakenFrom es e rest)
    (h' : TakenFrom es e' rest) : e = e' := by
  have hm : e ::ₘ (rest : Multiset Event) = e' ::ₘ rest := Multiset.coe_eq_coe.mpr (h.perm.symm.trans h'.perm)
  exact (Multiset.cons_inj_left _).mp hm

/-- A request is presented by the host's own move or by the batch sequencer's. -/
theorem Presented.move_eq {s : State} {rest : List Event} {bt : Batch} {r : Request} {e : Event}
    (h : Presented s rest bt r) (he : TakenFrom s.inputs e rest) : e = .present r ∨ e = .batchMove := by
  rcases h with ⟨hm, -⟩ | ⟨hm, -⟩
  · exact .inl (he.unique hm)
  · exact .inr (he.unique hm)

theorem calls_of_endedByStep {s t : State} (h : Spec.endedByStep s t) : t.calls = s.calls := by
  rcases h with ⟨-, -, ht⟩ | ⟨-, -, ht⟩ | ⟨-, c, -, ⟨-, ht⟩ | ⟨-, ht⟩⟩ <;> rw [ht]

theorem calls_of_keptByStep {s t : State} (h : Spec.keptByStep s t) : t.calls = s.calls := by
  rcases h with ⟨-, i, -, -, -, ht⟩ | ⟨-, v, -, ht⟩ | ⟨-, v, -, ht⟩ | ⟨-, -, -, ht⟩ | ⟨-, ht⟩ <;> rw [ht]

/-- Of the listed steps only the acceptance of a request makes a call (60_exceptions.md R230). -/
theorem acceptedByStep_of_calls_ne {s t : State} (h : step s = .next t) (hne : t.calls ≠ s.calls) :
    Spec.acceptedByStep s t := by
  rcases (stepTo_of_step h).listed with ⟨-, hr | ⟨-, r, -, -, ht⟩ | hr⟩ | ⟨-, hk⟩ | ⟨-, ht⟩
  · exact hr
  · exact absurd (by rw [ht]) hne
  · exact absurd (calls_of_endedByStep hr) hne
  · exact absurd (calls_of_keptByStep hk) hne
  · exact absurd (by rw [ht]; rfl) hne

/-- A call is made for a request that the step presented, and that request is then in `REQ` (40_transaction.md R90). -/
theorem presented_of_calls_ne {s t : State} (h : step s = .next t) (hne : t.calls ≠ s.calls) :
    ∃ r, Presented s t.inputs t.batch r ∧ t.req = r := by
  obtain ⟨-, i, hb, -, -, -, -, -, ht⟩ := acceptedByStep_of_calls_ne h hne
  exact ⟨encodeRequest i, hb, by rw [ht]⟩

/-- Settles O56: the move picked keeps the host's order, its effect drops no other move, and a call comes from the
request that it presents. -/
theorem hostMovesAreTakenInOrder : Obligations.HostMovesAreTakenInOrder := by
  intro s t h
  obtain ⟨e, rest, hpick, he, -, hperf⟩ := step_cases h
  obtain rfl : t.inputs = rest := perform_inputs hperf
  have htaken := (pick_spec hpick).1
  refine ⟨e, htaken, pick_keeps_order hpick, ?_, ?_, fun hne => ?_⟩
  · rintro (⟨r, rfl⟩ | ⟨v, rfl⟩ | ⟨v, rfl⟩)
    · rw [enabled, Bool.and_eq_true] at he
      exact ⟨rfl, of_decide_eq_true he.1⟩
    · exact ⟨rfl, of_decide_eq_true he⟩
    · exact ⟨rfl, of_decide_eq_true he⟩
  · rintro ⟨ws, rs, rfl⟩
    exact ⟨rfl, by simpa [enabled] using he⟩
  · obtain ⟨r, hb, hr⟩ := presented_of_calls_ne h hne
    exact ⟨r, hb, hr, hb.move_eq htaken⟩

/-- Settles O55: a system's step sets one entry of the list, to that machine's own next state. -/
theorem instancesAreIndependent : Obligations.InstancesAreIndependent := by
  intro k ss ts h
  obtain ⟨s, t, hk, hs, rfl⟩ := systemStep_cases h
  have hlt : k < ss.length := (List.getElem?_eq_some_iff.mp hk).1
  exact ⟨List.length_set, fun j hj => List.getElem?_set_ne hj.symm, s, t, hk, List.getElem?_set_self hlt, hs⟩

end Sys2Proof.Machine
end

section
/-! PROOFS. The request image and the record it carries (O1, O2, O3, O6; log 1), and the kind codes that select no kind
(O4). -/

namespace Sys2Proof.Machine

open Sys2Proof

theorem access_wf_iff (a : RegisterAccess) :
    a.wf = true ↔ a.sa < 4096 ∧ a.regAddr < 16777216 ∧ a.byteCount < 256 ∧ a.payload.length ≤ 255 ∧
      a.timeout.token < 65536 := by
  simp only [RegisterAccess.wf, RegisterAccess.saFits, RegisterAccess.addrFits, RegisterAccess.countFits,
    RegisterAccess.payloadFits, RegisterAccess.timeoutFits, Bool.and_eq_true, decide_eq_true_iff, and_assoc]
  rfl

/-- A number of two bytes is read back from them. -/
theorem pairLE_byteOf {v : Nat} (h : v < 65536) : pairLE (byteOf 0 v) (byteOf 1 v) = v := by
  simp only [pairLE, byteOf_toNat]; omega

theorem pairLE_lt (b0 b1 : Byte) : pairLE b0 b1 < 65536 := by
  simp only [pairLE]; omega

/-- The low byte of a number that starts with `b`. -/
theorem byteOf_zero_add (b : Byte) (n : Nat) : byteOf 0 (b.toNat + 256 * n) = b := by
  apply BitVec.eq_of_toNat_eq; rw [byteOf_toNat]; omega

/-- The bytes above the low one are those of the quotient. -/
theorem byteOf_succ_add (k : Nat) (b : Byte) (n : Nat) : byteOf (k + 1) (b.toNat + 256 * n) = byteOf k n := by
  apply BitVec.eq_of_toNat_eq
  have hq : (b.toNat + 256 * n) / 256 = n := by omega
  rw [byteOf_toNat, byteOf_toNat, pow_succ', ← Nat.div_div_eq_div_mul, hq]

theorem byteOf_zero_toNat (b : Byte) : byteOf 0 b.toNat = b := byteOf_zero_add b 0

@[simp] theorem byteOf_zero_pairLE (b0 b1 : Byte) : byteOf 0 (pairLE b0 b1) = b0 := byteOf_zero_add b0 _

@[simp] theorem byteOf_one_pairLE (b0 b1 : Byte) : byteOf 1 (pairLE b0 b1) = b1 :=
  (byteOf_succ_add 0 b0 _).trans (byteOf_zero_toNat b1)

/-- The image of a record whose operands fit is read back, with whatever follows it (log 1). -/
theorem requestOfBytes_bytesOfRequest {r : Request} (h : r.access.wf = true) (rest : List Byte) :
    requestOfBytes (bytesOfRequest r ++ rest) = some (r, rest) := by
  obtain ⟨hsa, haddr, hcount, hlen, htime⟩ := (access_wf_iff _).mp h
  obtain ⟨kind, sa, regAddr, byteCount, payload, ⟨token⟩⟩ := r
  simp only at hsa haddr hcount hlen htime
  have hkind := kind.isLt
  have hhead : pairLE (byteOf 0 (kind.toNat + 16 * sa)) (byteOf 1 (kind.toNat + 16 * sa)) = kind.toNat + 16 * sa :=
    pairLE_byteOf (by omega)
  have hn : (byteOf 0 payload.length).toNat = payload.length := by rw [byteOf_toNat]; omega
  have hk : BitVec.ofNat 4 ((kind.toNat + 16 * sa) % 16) = kind := by apply BitVec.eq_of_toNat_eq; simp; omega
  have hs : (kind.toNat + 16 * sa) / 16 = sa := by omega
  have ha : pairLE (byteOf 0 regAddr) (byteOf 1 regAddr) + 65536 * (byteOf 2 regAddr).toNat = regAddr := by
    simp only [pairLE, byteOf_toNat]; omega
  have hc : (byteOf 0 byteCount).toNat = byteCount := by rw [byteOf_toNat]; omega
  simp only [bytesOfRequest, List.cons_append, requestOfBytes, hhead, hn, hk, hs, ha, hc, pairLE_byteOf htime]
  simp

/-- A record read from bytes has operands that fit, and those bytes are its image and what follows it (log 1). -/
theorem wf_and_image_of_requestOfBytes {bs rest : List Byte} {r : Request} (h : requestOfBytes bs = some (r, rest)) :
    r.access.wf = true ∧ bytesOfRequest r ++ rest = bs := by
  unfold requestOfBytes at h
  split at h
  · rename_i b0 b1 b2 b3 b4 b5 b6 b7 b8 tail
    split at h
    · cases h
    · rename_i hlen
      cases h
      have hhead := pairLE_lt b0 b1
      have haddr := pairLE_lt b2 b3
      have htoken := pairLE_lt b6 b7
      have hpayload : (tail.take b8.toNat).length = b8.toNat := by rw [List.length_take]; omega
      have hword : (BitVec.ofNat 4 (pairLE b0 b1 % 16)).toNat + 16 * (pairLE b0 b1 / 16) = pairLE b0 b1 := by
        simp; omega
      have haddr3 : pairLE b2 b3 + 65536 * b4.toNat = b2.toNat + 256 * pairLE b3 b4 := by simp only [pairLE]; omega
      refine ⟨(access_wf_iff _).mpr ?_, ?_⟩
      · dsimp only; omega
      · simp only [bytesOfRequest, hpayload, hword, haddr3, byteOf_zero_add, byteOf_succ_add, byteOf_zero_toNat]
        simp
  · cases h

/-- Decoding is reading a record off the bytes and finding its kind. -/
theorem decode_eq_ok_iff_requestOfBytes {bs rest : List Byte} {i : Instr} :
    decode bs = .ok (i, rest) ↔ requestOfBytes bs = some (encodeRequest i, rest) := by
  constructor
  · intro h
    unfold decode at h
    split at h
    · cases h
    · split at h
      · cases h
        rw [‹requestOfBytes bs = _›, encodeRequest_of_decodeRequest ‹_›]
      · cases h
  · intro h
    simp [decode, h]

/-- Decoding inverts encoding: the bytes that decode to `i` are the image of a well-formed `i` and what follows it. -/
theorem decode_eq_ok_iff {bs rest : List Byte} {i : Instr} :
    decode bs = .ok (i, rest) ↔ i.wf = true ∧ encode i ++ rest = bs := by
  rw [decode_eq_ok_iff_requestOfBytes]
  constructor
  · exact wf_and_image_of_requestOfBytes
  · rintro ⟨hwf, rfl⟩
    exact requestOfBytes_bytesOfRequest (r := encodeRequest i) hwf rest

/-- Settles O1: one direction of `decode_eq_ok_iff`. -/
theorem decodeEncodeRoundTrip : Obligations.DecodeEncodeRoundTrip :=
  fun _ _ h => decode_eq_ok_iff.mpr ⟨h, rfl⟩

/-- Settles O2: the other direction of `decode_eq_ok_iff`. -/
theorem encodeDecodeRoundTrip : Obligations.EncodeDecodeRoundTrip :=
  fun _ _ _ h => decode_eq_ok_iff.mp h

/-- Settles O3: each word is evaluated. -/
theorem kindCodesDecodeByTheTable : Obligations.KindCodesDecodeByTheTable := by
  unfold Obligations.KindCodesDecodeByTheTable
  decide +kernel

/-! Presenting a request. -/

theorem presentRequest_of_decode {r : Request} {i : Instr} (h : decodeRequest r = .ok i) (s : State) :
    presentRequest r s = exec i s := by simp [presentRequest, h]

/-- An unmapped code in `IDLE` is UnsupportedCommandError, whatever the operands (40_transaction.md R91). -/
theorem presentRequest_unmapped {r : Request} {s : State} (hp : s.phase = .idle) (h : 10 ≤ r.kind.toNat) :
    presentRequest r s = .next ((s.latch r).takeError r.kind (.unsupportedCommand r.kind)) := by
  simp [presentRequest, decodeRequest_unmapped h, acceptUnmapped, hp]

/-- A request record is an instruction exactly when its kind code is mapped (30_encoding.md R60, R61). -/
theorem decodeRequest_ok_iff (r : Request) : (∃ i, decodeRequest r = .ok i) ↔ r.kind.toNat ≤ 9 := by
  constructor
  · rintro ⟨i, hi⟩
    rw [← encodeRequest_of_decodeRequest hi]
    exact kindCode_le i.kind
  · intro h
    cases hd : decodeRequest r with
    | ok i => exact ⟨i, rfl⟩
    | error e => have := (decodeRequest_error hd).2; omega

/-- Settles O4: an unmapped code decodes to no instruction, so it is accepted as such. -/
theorem unmappedCodeFaultsTheFramer : Obligations.UnmappedCodeFaultsTheFramer :=
  ⟨decodeRequest_ok_iff, fun _ _ hp h => presentRequest_unmapped hp h⟩

/-- What a word decodes to is what the request it stands for decodes to (log 6). -/
theorem decodeRequest_requestOfWord {nbits w : Nat} {i : Instr} (h : decodeTableWord nbits w = some i) :
    decodeRequest (requestOfWord nbits w) = .ok i := by
  unfold decodeTableWord at h
  split at h
  · rename_i hd
    cases h
    simp [requestOfWord, decode_eq_ok_iff_requestOfBytes.mp hd]
  · cases h

theorem withFetchWord_not_running (s : State) (nbits w : Nat) :
    (s.withFetchWord nbits w).batch.isRunning = false := by
  change (if s.batch.isRunning then Batch.idle else s.batch).isRunning = false
  split
  · rfl
  · exact Bool.eq_false_of_not_eq_true ‹_›

/-- Settles O6: the request placed by its bits is the first coming move, and it may go. -/
theorem fetchedWordRuns : Obligations.FetchedWordRuns := by
  intro s nbits w i h
  have henabled : enabled (s.withFetchWord nbits w) (.present (requestOfWord nbits w)) = true := by
    rw [enabled, withFetchWord_not_running]; rfl
  rw [step_head (s := s.withFetchWord nbits w) rfl henabled (.inl rfl)]
  exact presentRequest_of_decode (decodeRequest_requestOfWord h) _

end Sys2Proof.Machine
end

section
/-! PROOFS. Operands that a kind ignores (O25). -/

namespace Sys2Proof.Machine

open Sys2Proof

/-- The operands `a` with the one that the kind ignores replaced: a write's byte count, a read's payload (30_encoding.md
R79). -/
def withIgnored (k : Kind) (n : Nat) (p : List Byte) (a : RegisterAccess) : RegisterAccess :=
  if Spec.writes k then { a with byteCount := n } else { a with payload := p }

@[simp] theorem validate_withIgnored (k : Kind) (n : Nat) (p : List Byte) (a : RegisterAccess) :
    validate k (withIgnored k n p a) = validate k a := by cases k <;> rfl

@[simp] theorem buildFrame_withIgnored (k : Kind) (n : Nat) (p : List Byte) (a : RegisterAccess) (c : Cfg) :
    buildFrame k (withIgnored k n p a) c = buildFrame k a c := by cases k <;> rfl

@[simp] theorem callFor_withIgnored (k : Kind) (n : Nat) (p : List Byte) (a : RegisterAccess) (f : Bits) :
    callFor k (withIgnored k n p a) f = callFor k a f := by cases k <;> rfl

/-- Settles O25: validation, frame and call do not see the ignored operand. -/
theorem ignoredOperandsChangeNothing : Obligations.IgnoredOperandsChangeNothing := by
  intro s t i n p h
  change exec (Instr.make i.kind (withIgnored i.kind n p i.access)) s = _
  obtain ⟨hp, ⟨e, hv, rfl⟩ | ⟨f, hv, hf, rfl⟩⟩ := exec_cases h
  · rw [exec_rejected _ s e hp (by simpa using hv), make_kind]
    rfl
  · rw [exec_accepted _ s f hp (by simpa using hv) (by simpa using hf), make_kind, make_access, callFor_withIgnored]
    rfl

end Sys2Proof.Machine
end

section
/-! PROOFS. Bits and parity (O8, O9), and the statements' bit vocabulary told in the model's own. -/

namespace Sys2Proof.Machine

open Sys2Proof

theorem popcount_eq_length_filter (g : Bits) : popcount g = (g.filter (· = true)).length := by
  simp [popcount, List.count_eq_length_filter]

theorem odd_iff_popcount (g : Bits) : Spec.odd g ↔ popcount g % 2 = 1 := by
  rw [Spec.odd, popcount_eq_length_filter]

/-- A group with its parity bit has odd weight (30_encoding.md R83). -/
theorem odd_append_parityBit (g : Bits) : Spec.odd (g ++ parityBit g) :=
  (odd_iff_popcount _).mpr (popcount_parityBit_odd g)

theorem oddParity_iff (g : Bits) : oddParity g = true ↔ (g.filter (· = true)).length % 2 = 0 := by
  rw [← popcount_eq_length_filter]
  exact decide_eq_true_iff

/-- Settles O9: the first half is the definition, the second `odd_append_parityBit`. -/
theorem oddParityMakesTheOnesOdd : Obligations.OddParityMakesTheOnesOdd :=
  fun g => ⟨oddParity_iff g, odd_append_parityBit g⟩

/-- Settles O8: `to_bits` on a value that fits and on one that does not, and the frame of a validated request. -/
theorem toBitsIsMostSignificantFirst : Obligations.ToBitsIsMostSignificantFirst := by
  refine ⟨fun f v w => ⟨fun h => ?_, toBits_error f v w⟩, buildFrame_of_validate⟩
  exact ⟨msbFirst w v, toBits_ok f v w h, msbFirst_length w v, msbFirst_getElem? w v⟩

@[simp] theorem field_eq_msbFirst (w v : Nat) : Spec.field w v = msbFirst w v := by
  apply List.ext_getElem?
  intro i
  by_cases h : i < w
  · rw [msbFirst_getElem? w v i h]
    simp [Spec.field, h]
  · rw [List.getElem?_eq_none (by simp [Spec.field]; omega), List.getElem?_eq_none (by simp; omega)]

/-- A one in front turns the parity bit over, a zero leaves it. -/
theorem oddParity_cons (x : Bit) (g : Bits) : oddParity (x :: g) = Bool.xor x (oddParity g) := by
  have hcount : popcount (x :: g) = popcount g + x.toNat := by cases x <;> simp [popcount]
  rw [oddParity, oddParity, hcount, Bool.eq_iff_iff]
  cases x
  · simp
  · simp; omega

/-- Folding with exclusive or computes the complement of the parity bit (30_encoding.md R64). -/
theorem not_foldl_xor (g : Bits) (b : Bit) : (!g.foldl Bool.xor b) = Bool.xor b (oddParity g) := by
  induction g generalizing b with
  | nil => cases b <;> rfl
  | cons x g ih => rw [List.foldl_cons, ih, oddParity_cons, Bool.xor_assoc]

@[simp] theorem parity_eq_parityBit (g : Bits) : Spec.parity g = parityBit g := by
  rw [Spec.parity, not_foldl_xor, Bool.false_xor, parityBit]

@[simp] theorem byte_eq_byte9 (d : Byte) : Spec.byte d.toNat = byte9 d := by simp [Spec.byte, byte9]

@[simp] theorem bytes_eq_dataFrame (p : List Byte) : Spec.bytes p = dataFrame p := by
  simp [Spec.bytes, dataFrame, List.flatMap_def]

end Sys2Proof.Machine
end

section
/-! PROOFS. Frames: the frame of a validated request, kind by kind, and what R68 to R83 say of it (O27 to O31). -/

namespace Sys2Proof.Machine

open Sys2Proof

/-- The frame of the register kinds before any data (30_encoding.md R68, R69). -/
def registerHead (sa : Nat) (opcode : Bits) (addr : Nat) : Bits :=
  msbFirst 4 sa ++ opcode ++ msbFirst 5 addr ++ parityBit (msbFirst 4 sa ++ opcode ++ msbFirst 5 addr)

/-- The frame of a request whose operands are in range: what `build_frame` answers without the checks of `to_bits`. -/
def validFrame (k : Kind) (a : RegisterAccess) (c : Cfg) : Bits :=
  match k with
  | .regZeroWrite =>
    msbFirst 4 a.sa ++ msbFirst 7 (firstPayload a) ++ parityBit (msbFirst 4 a.sa ++ msbFirst 7 (firstPayload a))
  | .regWrite => registerHead a.sa opcRegWrite a.regAddr ++ dataFrame a.payload
  | .regRead | .regReadHighRate => registerHead a.sa (opcodeBits c.opcRegread) a.regAddr
  | .extWrite =>
    padTo c.padExtWrite (extendedHead false a.sa a.regAddr a.payload.length ++ dataFrame a.payload)
  | .extRead | .extReadHighRate => extendedHead true a.sa a.regAddr a.byteCount
  | .extLongWrite => longHead false a.sa a.regAddr a.payload.length ++ dataFrame a.payload
  | .extLongRead | .extLongReadHighRate => longHead true a.sa a.regAddr a.byteCount

theorem formatRW_ok (sa addr : Nat) (p : List Byte) (hs : sa ≤ 0xF) (ha : addr ≤ 0x1F) (hp : p.length ≤ 1) :
    formatRW sa addr p = .ok (registerHead sa opcRegWrite addr ++ dataFrame p) := by
  rw [formatRW, registerCommand_ok sa addr _ hs ha, List.take_of_length_le hp]
  rfl

/-- A validated request's frame is `validFrame` (40_transaction.md R100). -/
theorem buildFrame_eq_validFrame {k : Kind} {a : RegisterAccess} (h : validate k a = .ok ()) (c : Cfg) :
    buildFrame k a c = .ok (validFrame k a c) := by
  obtain ⟨hs, ha, ⟨-, hb⟩, hp⟩ := (validate_eq_ok k a).mp h
  cases k <;> simp [addrMax, desc] at ha hb hp
  case regZeroWrite => exact formatR0_ok _ _ hs hp
  case regWrite => exact formatRW_ok _ _ _ hs ha hb
  case regRead | regReadHighRate => exact registerCommand_ok _ _ _ hs ha
  case extWrite => exact formatEW_ok _ _ _ _ _ hs ha hb
  case extRead | extReadHighRate => exact formatER_ok _ _ _ hs ha hb
  case extLongWrite => exact formatLW_ok _ _ _ _ hs ha hb
  case extLongRead | extLongReadHighRate => exact formatLR_ok _ _ _ hs ha hb

theorem eq_validFrame {k : Kind} {a : RegisterAccess} {c : Cfg} {f : Bits} (h : validate k a = .ok ())
    (hf : buildFrame k a c = .ok f) : f = validFrame k a c :=
  Except.ok.inj (hf.symm.trans (buildFrame_eq_validFrame h c))

/-- Operands in the range of a kind other than RegZeroWrite pass the validator, so the frame is built. -/
theorem buildFrame_of_inRange {k : Kind} {a : RegisterAccess} {c : Cfg} {g : Bits} (hk : k ≠ .regZeroWrite)
    (hs : a.sa ≤ 0xF) (ha : a.regAddr ≤ addrMax k) (h1 : 1 ≤ byteCountOf k a) (h2 : byteCountOf k a ≤ (desc k).bcHi)
    (hg : validFrame k a c = g) : buildFrame k a c = .ok g := by
  have hv : validate k a = .ok () :=
    (validate_eq_ok k a).mpr ⟨hs, .inr ha, ⟨by rwa [bcLo_eq_one], h2⟩, fun h => absurd h hk⟩
  rw [buildFrame_eq_validFrame hv, hg]

/-! The formats of the statements (30_encoding.md R68 to R76). -/

theorem frameExtended_eq (sub : Bit) (sa addr bc : Nat) :
    Spec.frameExtended sub sa addr bc = extendedHead sub sa addr bc := by
  simp [Spec.frameExtended, Spec.byte, extendedHead]

theorem frameLong_eq (sub : Bit) (sa addr bc : Nat) : Spec.frameLong sub sa addr bc = longHead sub sa addr bc := by
  simp [Spec.frameLong, Spec.byte, longHead]

theorem padTo_eq (pad : Option Nat) (f : Bits) : padTo pad f = f ++ Spec.padding pad f.length := by
  cases pad with
  | none => exact (List.append_nil f).symm
  | some l => rfl

/-- Settles O27: in range each frame is `validFrame`, which is the statements' format. -/
theorem framesFollowTheirFormats : Obligations.FramesFollowTheirFormats := by
  intro a c hs _
  refine ⟨fun d ha hp => ?_, fun ha h1 h2 => ?_, fun ha h1 h2 => ⟨?_, ?_⟩, fun ha h1 h2 => ?_,
    fun ha h1 h2 => ⟨?_, ?_⟩⟩
  · have hcount : byteCountOf .regWrite a = 1 := by simp [byteCountOf, desc, hp]
    refine buildFrame_of_inRange nofun hs ha hcount.ge hcount.le ?_
    simp [validFrame, registerHead, opcRegWrite, hp, dataFrame, byte9]
  · exact buildFrame_of_inRange nofun hs ha h1 h2 (by simp [validFrame, padTo_eq, frameExtended_eq])
  · exact buildFrame_of_inRange nofun hs ha h1 h2 (frameExtended_eq _ _ _ _).symm
  · exact buildFrame_of_inRange nofun hs ha h1 h2 (frameExtended_eq _ _ _ _).symm
  · exact buildFrame_of_inRange nofun hs ha h1 h2 (by simp [validFrame, frameLong_eq])
  · exact buildFrame_of_inRange nofun hs ha h1 h2 (frameLong_eq _ _ _ _).symm
  · exact buildFrame_of_inRange nofun hs ha h1 h2 (frameLong_eq _ _ _ _).symm

/-! Lengths (30_encoding.md R74). -/

@[simp] theorem registerHead_length (sa addr : Nat) (opcode : Bits) :
    (registerHead sa opcode addr).length = 10 + opcode.length := by
  simp [registerHead]; omega

@[simp] theorem opcodeBits_length (v : BitVec 3) : (opcodeBits v).length = 3 := msbFirst_length 3 v.toNat

/-- A legal padding length is reached by every frame of up to 162 bits (30_encoding.md R76). -/
theorem padTo_some_length {l : Nat} {f : Bits} (hl : padLegal (some l) = true) (hf : f.length ≤ 162) :
    (padTo (some l) f).length = l := by
  have := (padLegal_some l).mp hl
  simp [padTo]; omega

theorem le_fMax (c : Cfg) : 162 ≤ fMax c := by
  unfold fMax
  split
  · exact Nat.le_max_left _ _
  · exact Nat.le_refl _

/-- The length of a validated request's frame (30_encoding.md R74). -/
theorem validFrame_length {i : Instr} {c : Cfg} (hc : cfgLegal c = true) (hv : validate i.kind i.access = .ok ()) :
    (validFrame i.kind i.access c).length = Spec.frameLength i c := by
  obtain ⟨-, -, ⟨hlo, hhi⟩, -⟩ := (validate_eq_ok _ _).mp hv
  cases i <;> simp [Instr.kind, Instr.access, byteCountOf, desc] at hlo hhi
  case regZeroWrite a => simp [validFrame, Instr.kind, Spec.frameLength]
  case regWrite a =>
    have : a.payload.length = 1 := by omega
    simp [validFrame, Instr.kind, Instr.access, Spec.frameLength, opcRegWrite, this]
  case regRead a | regReadHighRate a => simp [validFrame, Instr.kind, Spec.frameLength]
  case extWrite a =>
    obtain ⟨hpad, -⟩ := cfgLegal_iff.mp hc
    have hcount : Spec.count (.extWrite a) = a.payload.length := rfl
    simp only [validFrame, Instr.kind, Instr.access, Spec.frameLength, hcount]
    cases hp : c.padExtWrite with
    | none => simp [padTo]
    | some l => exact padTo_some_length (hp ▸ hpad) (by simp; omega)
  case extRead a | extReadHighRate a => simp [validFrame, Instr.kind, Spec.frameLength]
  case extLongWrite a => simp [validFrame, Instr.kind, Instr.access, Spec.frameLength, Spec.count, Spec.writes]
  case extLongRead a | extLongReadHighRate a => simp [validFrame, Instr.kind, Spec.frameLength]

/-- No frame is longer than F_MAX (10_state.md R26). -/
theorem frameLength_le_fMax {i : Instr} (c : Cfg) (hv : validate i.kind i.access = .ok ()) :
    Spec.frameLength i c ≤ fMax c := by
  obtain ⟨-, -, ⟨-, hhi⟩, -⟩ := (validate_eq_ok _ _).mp hv
  rw [← count_eq_byteCountOf] at hhi
  have hmax := le_fMax c
  rw [Spec.frameLength]
  cases i <;> simp only [Instr.kind, desc] at hhi ⊢
  case extWrite a =>
    cases hp : c.padExtWrite with
    | none => simp only; omega
    | some l => simp [fMax, hp]
  all_goals omega

/-- Settles O28: the frame built is `validFrame`, whose length is that of the table. -/
theorem frameLengthIsStaticallyKnown : Obligations.FrameLengthIsStaticallyKnown := by
  intro i c hc hv
  have hlen := validFrame_length hc hv
  exact ⟨_, buildFrame_eq_validFrame hv c, hlen, hlen.trans_le (frameLength_le_fMax c hv)⟩

/-! ExtWrite beside ExtRead (30_encoding.md R80). -/

/-- The sub-opcode turns bit 8 over, the parity bit of the byte count, and no other. -/
theorem extendedHead_true (sa addr bc : Nat) :
    extendedHead true sa addr bc = (extendedHead false sa addr bc).modify 8 not := by
  simp only [extendedHead, parityBit, oddParity_cons, Bool.true_xor, Bool.false_xor]
  rfl

/-- ExtWrite's frame goes on after its head, in at least one bit. -/
theorem validFrame_extWrite (a : RegisterAccess) (c : Cfg) :
    validFrame .extWrite a c = extendedHead false a.sa a.regAddr a.payload.length ++
      (dataFrame a.payload ++ Spec.padding c.padExtWrite (18 + 9 * a.payload.length)) := by
  simp [validFrame, padTo_eq]

/-- Settles O29: ExtRead's frame is the head of ExtWrite's with bit 8 turned over, and ExtWrite's goes on with data. -/
theorem extWriteAndExtReadFramesDifferInBit8AndLength :
    Obligations.ExtWriteAndExtReadFramesDifferInBit8AndLength := by
  refine ⟨fun a b c f g hsa haddr hcount hv hf hg => ?_, fun b c => ⟨rfl, rfl, rfl⟩⟩
  obtain ⟨hs, ha, ⟨h1, h2⟩, -⟩ := (validate_eq_ok _ _).mp hv
  have hdata : 1 ≤ a.payload.length := h1
  have hread : buildFrame .extRead b c = .ok ((extendedHead false a.sa a.regAddr a.payload.length).modify 8 not) := by
    rw [← extendedHead_true, hsa, haddr, hcount]
    exact buildFrame_of_inRange nofun (hsa ▸ hs) (haddr ▸ ha.resolve_left nofun) (hdata.trans_eq hcount)
      (hcount.symm.trans_le h2) rfl
  obtain rfl := Except.ok.inj (hg.symm.trans hread)
  obtain rfl := eq_validFrame hv hf
  rw [validFrame_extWrite]
  have hlen := extendedHead_length false a.sa a.regAddr a.payload.length
  refine ⟨fun n hn hne => ?_, ⟨_, List.getElem?_eq_getElem (by simp; omega), ?_⟩, ?_⟩
  · rw [List.getElem?_append_left (by omega), List.getElem?_modify_ne _ _ hne.symm]
  · rw [List.getElem?_modify_eq, List.getElem?_eq_getElem (by omega), List.getElem_append_left (by omega)]
    rfl
  · simp only [List.length_append, List.length_modify, dataFrame_length]
    omega

/-! Parity groups (30_encoding.md R83). -/

/-- A part of a frame, by its position and length. -/
theorem take_drop_append {pre g post : Bits} {n m : Nat} (hn : pre.length = n) (hm : g.length = m) :
    ((pre ++ (g ++ post)).drop n).take m = g := by
  rw [List.drop_left' hn, List.take_left' hm]

/-- Group `n` of a data frame is byte `n` with its parity bit, whatever follows. -/
theorem dataFrame_group {p : List Byte} {n : Nat} {d : Byte} (h : p[n]? = some d) (post : Bits) :
    ((dataFrame p ++ post).drop (9 * n)).take 9 = byte9 d := by
  induction p generalizing n with
  | nil => cases h
  | cons b p ih =>
    rw [dataFrame_cons, List.append_assoc]
    cases n with
    | zero =>
      obtain rfl : b = d := by simpa using h
      exact List.take_left' (byte9_length b)
    | succ n =>
      have hn : 9 * (n + 1) = (byte9 b).length + 9 * n := by rw [byte9_length]; omega
      rw [hn, ← List.drop_drop, List.drop_left]
      exact ih h

/-- The data of an extended write stands behind its head, of 18 bits or 26. -/
theorem validFrame_data {k : Kind} (hk : k = .extWrite ∨ k = .extLongWrite) (a : RegisterAccess) (c : Cfg) :
    ∃ head post, validFrame k a c = head ++ (dataFrame a.payload ++ post) ∧
      head.length = if k = .extWrite then 18 else 26 := by
  obtain rfl | rfl := hk
  · exact ⟨_, _, validFrame_extWrite a c, extendedHead_length ..⟩
  · exact ⟨_, [], by rw [List.append_nil]; rfl, longHead_length ..⟩

/-- Settles O30: the group is `byte9` of its byte. -/
theorem dataGroupsHaveOddWeight : Obligations.DataGroupsHaveOddWeight := by
  intro k a c f n d hk hv hf hd
  obtain rfl := eq_validFrame hv hf
  obtain ⟨head, post, hframe, hlen⟩ := validFrame_data hk a c
  have hgroup : ((validFrame k a c).drop ((if k = .extWrite then 18 else 26) + 9 * n)).take 9 = byte9 d := by
    rw [hframe, ← hlen, ← List.drop_drop, List.drop_left, dataFrame_group hd]
  simp only [hgroup]
  refine ⟨?_, byte9_length d, odd_append_parityBit _⟩
  rw [field_eq_msbFirst]
  exact List.take_left' (msbFirst_length 8 _)

/-- The last group of a frame, whose length is not written out. -/
theorem odd_drop_of_take {f : Bits} {n m : Nat} (h : Spec.odd ((f.drop n).take m)) (hlen : f.length = n + m) :
    Spec.odd (f.drop n) := by
  rwa [List.take_of_length_le (by simp [hlen])] at h

/-- The groups of a frame of an extended kind, whatever follows its head. -/
theorem extendedHead_append (sub : Bit) (sa addr bc : Nat) (post : Bits) :
    extendedHead sub sa addr bc ++ post =
      msbFirst 4 sa ++ (msbFirst 4 (bc - 1) ++ parityBit (sub :: msbFirst 4 (bc - 1))) ++
        (msbFirst 8 addr ++ parityBit (msbFirst 8 addr) ++ post) := by
  simp [extendedHead]

/-- The groups of a frame of an extended-long kind, whatever follows its head. -/
theorem longHead_append (sub : Bit) (sa addr bc : Nat) (post : Bits) :
    longHead sub sa addr bc ++ post =
      msbFirst 4 sa ++ (msbFirst 3 (bc - 1) ++ parityBit (sub :: msbFirst 3 (bc - 1))) ++
        (msbFirst 8 (addr / 256) ++ parityBit (msbFirst 8 (addr / 256)) ++
          (msbFirst 8 (addr % 256) ++ parityBit (msbFirst 8 (addr % 256)) ++ post)) := by
  simp [longHead]

/-- Command and address group of the extended kinds, the first with the sub-opcode bit in front (30_encoding.md R75). -/
theorem extendedHead_odd (sub : Bit) (sa addr bc : Nat) (post : Bits) :
    Spec.odd (sub :: ((extendedHead sub sa addr bc ++ post).drop 4).take 5) ∧
    Spec.odd (((extendedHead sub sa addr bc ++ post).drop 9).take 9) := by
  rw [extendedHead_append]
  constructor
  · rw [List.append_assoc, take_drop_append (by simp) (by simp)]
    exact odd_append_parityBit (sub :: msbFirst 4 (bc - 1))
  · rw [take_drop_append (by simp) (by simp)]
    exact odd_append_parityBit _

/-- Command and address groups of the extended-long kinds, the first with the sub-opcode bit in front (R75). -/
theorem longHead_odd (sub : Bit) (sa addr bc : Nat) (post : Bits) :
    Spec.odd (sub :: ((longHead sub sa addr bc ++ post).drop 4).take 4) ∧
    Spec.odd (((longHead sub sa addr bc ++ post).drop 8).take 9) ∧
    Spec.odd (((longHead sub sa addr bc ++ post).drop 17).take 9) := by
  rw [longHead_append]
  refine ⟨?_, ?_, ?_⟩
  · rw [List.append_assoc, take_drop_append (by simp) (by simp)]
    exact odd_append_parityBit (sub :: msbFirst 3 (bc - 1))
  · rw [take_drop_append (by simp) (by simp)]
    exact odd_append_parityBit _
  · rw [← List.append_assoc, take_drop_append (by simp) (by simp)]
    exact odd_append_parityBit _

/-- The command group of RegWrite and its data byte. -/
theorem registerHead_odd (sa addr : Nat) (d : Byte) :
    Spec.odd ((registerHead sa opcRegWrite addr ++ byte9 d).take 13) ∧
    Spec.odd ((registerHead sa opcRegWrite addr ++ byte9 d).drop 13) := by
  have hlen : (registerHead sa opcRegWrite addr).length = 13 := registerHead_length ..
  rw [List.take_left' hlen, List.drop_left' hlen]
  exact ⟨odd_append_parityBit _, odd_append_parityBit _⟩

/-- Settles O31: kind by kind, each group ends in the parity bit over the rest of it. -/
theorem commandAndAddressGroupsHaveOddWeight : Obligations.CommandAndAddressGroupsHaveOddWeight := by
  intro k a c f hv hf
  obtain rfl := eq_validFrame hv hf
  cases k with
  | regZeroWrite | regRead | regReadHighRate => exact odd_append_parityBit _
  | regWrite =>
    obtain ⟨-, -, ⟨h1, h2⟩, -⟩ := (validate_eq_ok _ _).mp hv
    obtain ⟨d, hd⟩ := List.length_eq_one_iff.mp (Nat.le_antisymm h2 h1 : a.payload.length = 1)
    have hframe : validFrame .regWrite a c = registerHead a.sa opcRegWrite a.regAddr ++ byte9 d := by
      simp [validFrame, hd, dataFrame]
    simp only [hframe]
    exact registerHead_odd ..
  | extWrite =>
    simp only [validFrame_extWrite]
    exact extendedHead_odd ..
  | extRead | extReadHighRate =>
    obtain ⟨hcommand, haddr⟩ := extendedHead_odd true a.sa a.regAddr a.byteCount []
    rw [List.append_nil] at hcommand haddr
    exact ⟨hcommand, odd_drop_of_take haddr (extendedHead_length ..)⟩
  | extLongWrite => exact longHead_odd ..
  | extLongRead | extLongReadHighRate =>
    obtain ⟨hcommand, hhigh, hlow⟩ := longHead_odd true a.sa a.regAddr a.byteCount []
    rw [List.append_nil] at hcommand hhigh hlow
    exact ⟨hcommand, hhigh, odd_drop_of_take hlow (longHead_length ..)⟩

end Sys2Proof.Machine
end

section
/-! PROOFS. Validation: what is rejected and what is reported (O17 to O20), what a rejection changes (O22), and what is
accepted (O21). -/

namespace Sys2Proof.Machine

open Sys2Proof

/-! The error reported for an operand out of range, the operands before it being in range (40_transaction.md R93). -/

theorem checkRegAddr_of_gt {k : Kind} {addr : Nat} (hk : k ≠ .regZeroWrite) (h : addrMax k < addr) :
    checkRegAddr k addr = .error (.validation .regAddr 0 (addrMax k) addr) := by
  cases k with
  | regZeroWrite => exact absurd rfl hk
  | _ => exact if_pos h

theorem checkByteCount_of_out {k : Kind} {bc : Nat} (h : bc < (desc k).bcLo ∨ (desc k).bcHi < bc) :
    checkByteCount k bc = .error (.validation .byteCount (desc k).bcLo (desc k).bcHi bc) := if_pos h

theorem validate_of_sa_gt {k : Kind} {a : RegisterAccess} (h : 0xF < a.sa) :
    validate k a = .error (.validation .sa 0 0xF a.sa) := by
  simp only [validate, checkSa, if_pos h]

theorem validate_of_regAddr_gt {k : Kind} {a : RegisterAccess} (hs : a.sa ≤ 0xF) (hk : k ≠ .regZeroWrite)
    (h : addrMax k < a.regAddr) : validate k a = .error (.validation .regAddr 0 (addrMax k) a.regAddr) := by
  simp only [validate, (checkSa_eq_ok _).mpr hs, checkRegAddr_of_gt hk h]

theorem validate_of_byteCount_out {k : Kind} {a : RegisterAccess} (hs : a.sa ≤ 0xF)
    (ha : k = .regZeroWrite ∨ a.regAddr ≤ addrMax k)
    (h : byteCountOf k a < (desc k).bcLo ∨ (desc k).bcHi < byteCountOf k a) :
    validate k a = .error (.validation .byteCount (desc k).bcLo (desc k).bcHi (byteCountOf k a)) := by
  simp only [validate, (checkSa_eq_ok _).mpr hs, (checkRegAddr_eq_ok _ _).mpr ha, checkByteCount_of_out h]

theorem validate_of_reg0Payload_gt {a : RegisterAccess} {d : Byte} (hs : a.sa ≤ 0xF) (hp : a.payload = [d])
    (h : 0x7F < d.toNat) : validate .regZeroWrite a = .error (.validation .payload 0 0x7F d.toNat) := by
  have hcount : checkByteCount .regZeroWrite (byteCountOf .regZeroWrite a) = .ok () :=
    (checkByteCount_eq_ok _ _).mpr (by simp [byteCountOf, desc, hp])
  have hfirst : firstPayload a = d.toNat := by simp [firstPayload, hp]
  simp only [validate, (checkSa_eq_ok _).mpr hs, checkRegAddr, hcount, checkReg0Payload, hfirst, if_pos h]

/-! What is reported. -/

/-- The operand that the field names is out of the kind's range (40_transaction.md R94 to R97). -/
def OperandOut (k : Kind) (a : RegisterAccess) : StatusField → Prop
  | .sa => 0xF < a.sa
  | .regAddr => k ≠ .regZeroWrite ∧ addrMax k < a.regAddr
  | .byteCount => byteCountOf k a < (desc k).bcLo ∨ (desc k).bcHi < byteCountOf k a
  | .payload => k = .regZeroWrite ∧ 0x7F < firstPayload a
  | .none | .kind | .capture => False

/-- The validator reports an operand that is out of range. -/
theorem operandOut_of_validate_error {k : Kind} {a : RegisterAccess} {e : FramerError} (c : BitVec 4)
    (h : validate k a = .error e) : OperandOut k a (errorStatus c e).field := by
  rcases validate_eq_error h with ⟨hs, rfl⟩ | ⟨-, hk, ha, rfl⟩ | ⟨-, -, hb, rfl⟩ | ⟨-, -, -, hk, hp, rfl⟩
  · exact hs
  · exact ⟨hk, ha⟩
  · exact hb
  · exact ⟨hk, hp⟩

/-- An instruction leaves `STATUS` alone, or reports an operand that is out of range. -/
theorem operandOut_of_exec {i : Instr} {s t : State} (h : exec i s = .next t) :
    t.status = s.status ∨ OperandOut i.kind i.access t.status.field := by
  obtain ⟨-, ⟨e, hv, rfl⟩ | ⟨f, -, -, rfl⟩⟩ := exec_cases h
  · exact .inr (operandOut_of_validate_error _ hv)
  · exact .inl rfl

/-- An operand in range is not newly reported. -/
theorem status_of_exec_of_inRange {i : Instr} {s t : State} {field : StatusField}
    (hin : ¬ OperandOut i.kind i.access field) (h : exec i s = .next t) (hf : t.status.field = field) :
    t.status = s.status :=
  (operandOut_of_exec h).resolve_right (hf ▸ hin)

theorem addressOk_iff (i : Instr) :
    Spec.addressOk i ↔ i.kind = .regZeroWrite ∨ i.access.regAddr ≤ addrMax i.kind := by
  rw [Spec.addressOk, greatestAddress_eq_addrMax]

theorem addressOk_iff_not_operandOut (i : Instr) :
    Spec.addressOk i ↔ ¬ OperandOut i.kind i.access .regAddr := by
  rw [addressOk_iff, OperandOut, not_and_or, not_not, not_lt]

theorem countOk_iff_not_operandOut (i : Instr) :
    Spec.countOk i ↔ ¬ OperandOut i.kind i.access .byteCount := by
  rw [Spec.countOk, count_eq_byteCountOf, greatestCount_eq_bcHi, OperandOut, bcLo_eq_one, not_or, not_lt, not_lt]

/-! The statements. -/

/-- A rejected request leaves the state of the statements: in `IDLE`, with `REQ` and `STATUS` written. -/
theorem exec_eq_rejected {i : Instr} {s : State} {e : FramerError} (hp : s.phase = .idle)
    (hv : validate i.kind i.access = .error e) :
    exec i s = .next (Spec.rejected i (errorStatus (kindCode i.kind) e) s) := by
  rw [exec_rejected i s e hp hv, State.takeError, errorPhase_of_validate_error hv, ← hp]
  rfl

/-- Settles O22: the validator's errors leave `IDLE`, and each is a ValidationError. -/
theorem validationFailureChangesOnlyStatus : Obligations.ValidationFailureChangesOnlyStatus :=
  fun _ _ _ hp hv => ⟨exec_eq_rejected hp hv, errorStatus_code_of_validate_error _ hv⟩

/-- Settles O17: the slave address is checked first. -/
theorem slaveAddressAboveFIsRejected : Obligations.SlaveAddressAboveFIsRejected :=
  fun _ _ hp => ⟨fun h => exec_eq_rejected hp (validate_of_sa_gt h),
    fun h _ => status_of_exec_of_inRange (field := .sa) (Nat.not_lt.mpr h)⟩

/-- RegZeroWrite's register address reaches neither validation nor the frame nor the call (40_transaction.md R95). -/
theorem exec_regZeroWrite_withRegAddr {a : RegisterAccess} (x : Nat) {s t : State}
    (h : exec (.regZeroWrite a) s = .next t) :
    exec (.regZeroWrite { a with regAddr := x }) s =
      .next { t with req := encodeRequest (.regZeroWrite { a with regAddr := x }) } := by
  obtain ⟨hp, ⟨e, hv, rfl⟩ | ⟨f, hv, hf, rfl⟩⟩ := exec_cases h
  · exact exec_rejected _ s e hp hv
  · exact exec_accepted _ s f hp hv hf

/-- Settles O18: the register address is checked next, and RegZeroWrite's is not. -/
theorem registerAddressAboveItsWidthIsRejected : Obligations.RegisterAddressAboveItsWidthIsRejected := by
  intro s i hp hs
  refine ⟨fun hk ha => ?_, fun ha _ => ?_, fun a x _ => exec_regZeroWrite_withRegAddr x⟩
  · rw [greatestAddress_eq_addrMax] at ha ⊢
    exact exec_eq_rejected hp (validate_of_regAddr_gt hs hk ha)
  · exact status_of_exec_of_inRange ((addressOk_iff_not_operandOut i).mp ha)

/-- Settles O19: the byte count is checked after both addresses. -/
theorem byteCountOutOfRangeIsRejected : Obligations.ByteCountOutOfRangeIsRejected := by
  intro s i hp hs ha
  refine ⟨fun hc => ?_, fun hc _ => status_of_exec_of_inRange ((countOk_iff_not_operandOut i).mp hc)⟩
  rw [countOk_iff_not_operandOut, not_not] at hc
  rw [exec_eq_rejected hp (validate_of_byteCount_out hs ((addressOk_iff i).mp ha) hc), bcLo_eq_one,
    ← greatestCount_eq_bcHi, ← count_eq_byteCountOf]
  rfl

/-- Settles O20: one payload byte is the right count, so the byte's bound is what is reported. -/
theorem regZeroWritePayloadAbove7FIsRejected : Obligations.RegZeroWritePayloadAbove7FIsRejected :=
  fun _ a _ hp hs hd h => exec_eq_rejected (i := .regZeroWrite a) hp (validate_of_reg0Payload_gt hs hd h)

/-- Settles O21: the operands in range are those that the validator passes, and a rejection stays in `IDLE`. -/
theorem acceptedExactlyWhenInRange : Obligations.AcceptedExactlyWhenInRange := by
  intro s i hp
  rw [← validate_ok_iff_inRange, writes_eq_isWrite]
  constructor
  · intro hv
    obtain ⟨f, hf⟩ := buildFrame_of_validate i.kind i.access s.cfg hv
    exact ⟨_, exec_accepted i s f hp hv hf, rfl⟩
  · rintro ⟨t, ht, hphase⟩
    obtain ⟨-, ⟨e, hv, rfl⟩ | ⟨f, hv, -⟩⟩ := exec_cases ht
    · have hwaiting := waiting_of_direction (desc i.kind).isWrite
      rw [← hphase, State.takeError_phase, errorPhase_of_validate_error hv] at hwaiting
      cases hwaiting
    · exact hv

end Sys2Proof.Machine
end

section
/-! PROOFS. The course of a transaction: a request is presented (O5), its call is made once (O39), a write is done
(O32). -/

namespace Sys2Proof.Machine

open Sys2Proof

/-- In `IDLE`, with no batch running, a request at the head is presented. -/
theorem step_present_of_idle {s : State} {r : Request} {rest : List Event} (hp : s.phase = .idle)
    (hb : s.batch.isRunning = false) (hi : s.inputs = .present r :: rest) :
    step s = presentRequest r { s with inputs := rest } :=
  step_head hi (by simp [enabled, hp, hb]) (.inl (not_defensive_of_phase (by simp [hp])))

/-- Settles O5: the request at the head is presented, and presenting one that decodes is executing it. -/
theorem stepRunsThePresentedInstruction : Obligations.StepRunsThePresentedInstruction := by
  intro s r rest hp hb hi
  have hstep := step_present_of_idle hp hb hi
  exact ⟨fun i hd => hstep.trans (presentRequest_of_decode hd _), fun _ => hstep⟩

/-- Settles O39: of the listed steps only the acceptance of a request makes a call, and it makes one. -/
theorem oneCallPerTransaction : Obligations.OneCallPerTransaction := by
  intro s t h
  refine or_iff_not_imp_left.mpr fun hne => ?_
  obtain ⟨hp, i, -, -, -, -, -, hf, ht⟩ := acceptedByStep_of_calls_ne h hne
  refine ⟨hp, ?_, i.kind, i.access, ?_, hf, ?_⟩
  · rw [ht]; exact waiting_of_direction (Spec.writes i.kind)
  · rw [ht]; rfl
  · rw [← call_eq_callFor, ht]

/-- In `WAIT_TX` `REQ` can be read, so `DONE` ends the write (40_transaction.md R101). -/
theorem takeAnswer_done_of_waitTx {s : State} (hp : s.phase = .waitTx) :
    takeAnswer .done s = .next (s.finishOk s.req.kind) := by
  simp only [takeAnswer, hp]
  exact withReq_of_waiting (by simp [hp, Phase.waiting]) _

/-- Settles O32: the answer at the head is taken, and ends the write. -/
theorem writeEndsWithOk : Obligations.WriteEndsWithOk := by
  intro s rest hp hi
  exact (step_answer_of_waiting (by simp [hp, Phase.waiting]) hi).trans
    (takeAnswer_done_of_waitTx (s := { s with inputs := rest }) hp)

end Sys2Proof.Machine
end

section
/-! PROOFS. Accepted requests in the states of the statements, and the register family (O10 to O12). -/

namespace Sys2Proof.Machine

open Sys2Proof

/-- A write with its operands in range leaves the state of the statements (40_transaction.md R90). -/
theorem exec_eq_acceptedWrite {i : Instr} {s : State} {f : Bits} (hw : (desc i.kind).isWrite = true)
    (hp : s.phase = .idle) (hv : validate i.kind i.access = .ok ()) (hf : f = validFrame i.kind i.access s.cfg) :
    exec i s = .next (Spec.acceptedWrite (kindCode i.kind) i.access f s) := by
  subst hf
  rw [exec_accepted i s _ hp hv (buildFrame_eq_validFrame hv s.cfg), callFor, if_pos hw, if_pos hw]
  rfl

/-- A read with its operands in range leaves the state of the statements (40_transaction.md R90). -/
theorem exec_eq_acceptedRead {i : Instr} {s : State} {f : Bits} (hr : (desc i.kind).isWrite = false)
    (hp : s.phase = .idle) (hv : validate i.kind i.access = .ok ()) (hf : f = validFrame i.kind i.access s.cfg) :
    exec i s = .next (Spec.acceptedRead (kindCode i.kind) i.access f s) := by
  subst hf
  have hread : ¬ (desc i.kind).isWrite = true := by simp [hr]
  have hcount : byteCountOf i.kind i.access = i.access.byteCount := if_neg hread
  rw [exec_accepted i s _ hp hv (buildFrame_eq_validFrame hv s.cfg), callFor, if_neg hread, if_neg hread, hcount]
  rfl

/-! The formats of the register kinds (30_encoding.md R67 to R69). -/

theorem frameRegister_eq (sa : Nat) (opcode : Bits) (addr : Nat) :
    Spec.frameRegister sa opcode addr = registerHead sa opcode addr := by
  simp [Spec.frameRegister, registerHead]

theorem frameR0_eq_validFrame {a : RegisterAccess} {d : Byte} (hd : a.payload = [d]) (c : Cfg) :
    Spec.frameR0 a.sa d.toNat = validFrame .regZeroWrite a c := by
  simp [Spec.frameR0, validFrame, firstPayload, hd]

theorem frameRW_eq_validFrame {a : RegisterAccess} {d : Byte} (hd : a.payload = [d]) (c : Cfg) :
    Spec.frameRegister a.sa [false, true, false] a.regAddr ++ Spec.byte d.toNat = validFrame .regWrite a c := by
  rw [frameRegister_eq, byte_eq_byte9, validFrame, hd, dataFrame, List.flatMap_singleton]
  rfl

theorem frameRR_eq_registerHead (a : RegisterAccess) (v : BitVec 3) :
    Spec.frameRegister a.sa (Spec.field 3 v.toNat) a.regAddr = registerHead a.sa (opcodeBits v) a.regAddr := by
  rw [frameRegister_eq, field_eq_msbFirst, opcodeBits]

/-! The statements. -/

/-- Settles O10: one payload byte is the right count, the register address is not looked at, and the frame is F-R0. -/
theorem regZeroWriteHandsOverItsFrame : Obligations.RegZeroWriteHandsOverItsFrame := by
  intro s a d hp hs hd hmax
  have hcount : Spec.count (.regZeroWrite a) = 1 := congrArg List.length hd
  have hbyte : Spec.reg0Ok (.regZeroWrite a) := by
    rintro - e he
    obtain rfl : d = e := by simpa using hd.symm.trans he
    exact hmax
  exact exec_eq_acceptedWrite (i := .regZeroWrite a) rfl hp
    ((validate_ok_iff_inRange _).mpr ⟨hs, .inl rfl, ⟨hcount.ge, hcount.le⟩, hbyte⟩) (frameR0_eq_validFrame hd s.cfg)

/-- Settles O11: one payload byte is the right count, and the frame is F-RW. -/
theorem regWriteHandsOverItsFrame : Obligations.RegWriteHandsOverItsFrame := by
  intro s a d hp hs ha hd
  have hcount : Spec.count (.regWrite a) = 1 := congrArg List.length hd
  exact exec_eq_acceptedWrite (i := .regWrite a) rfl hp
    ((validate_ok_iff_inRange _).mpr ⟨hs, .inr ha, ⟨hcount.ge, hcount.le⟩, nofun⟩) (frameRW_eq_validFrame hd s.cfg)

/-- Settles O12: the two reads pass the same checks and have the same frame F-RR. -/
theorem regReadsHandOverTheirFrame : Obligations.RegReadsHandOverTheirFrame := by
  intro s a hp hs ha hcount
  have hframe := frameRR_eq_registerHead a s.cfg.opcRegread
  constructor
  · exact exec_eq_acceptedRead (i := .regRead a) rfl hp
      ((validate_ok_iff_inRange _).mpr ⟨hs, .inr ha, ⟨hcount.ge, hcount.le⟩, nofun⟩) hframe
  · exact exec_eq_acceptedRead (i := .regReadHighRate a) rfl hp
      ((validate_ok_iff_inRange _).mpr ⟨hs, .inr ha, ⟨hcount.ge, hcount.le⟩, nofun⟩) hframe

end Sys2Proof.Machine
end

section
/-! PROOFS. The extended family (O13, O14). -/

namespace Sys2Proof.Machine

open Sys2Proof

/-- F-EW with its padding, as the statements group it (30_encoding.md R70, R76). -/
theorem frameEW_eq_validFrame (a : RegisterAccess) (c : Cfg) :
    Spec.frameExtended false a.sa a.regAddr a.payload.length ++ Spec.bytes a.payload ++
      Spec.padding c.padExtWrite (18 + 9 * a.payload.length) = validFrame .extWrite a c := by
  rw [validFrame_extWrite, frameExtended_eq, bytes_eq_dataFrame, List.append_assoc]

/-- Settles O13: the operands pass the validator, and the frame is F-EW with its padding, for every `CFG`, legal or
not. -/
theorem extWriteHandsOverItsFrame : Obligations.ExtWriteHandsOverItsFrame := by
  intro s a hp hs ha h1 h16 _
  exact exec_eq_acceptedWrite (i := .extWrite a) rfl hp
    ((validate_ok_iff_inRange _).mpr ⟨hs, .inr ha, ⟨h1, h16⟩, nofun⟩) (frameEW_eq_validFrame a s.cfg)

/-- Settles O14: the two reads pass the same checks and have the same frame F-ER. -/
theorem extReadsHandOverTheirFrame : Obligations.ExtReadsHandOverTheirFrame := by
  intro s a hp hs ha h1 h16
  have hframe := frameExtended_eq true a.sa a.regAddr a.byteCount
  constructor
  · exact exec_eq_acceptedRead (i := .extRead a) rfl hp
      ((validate_ok_iff_inRange _).mpr ⟨hs, .inr ha, ⟨h1, h16⟩, nofun⟩) hframe
  · exact exec_eq_acceptedRead (i := .extReadHighRate a) rfl hp
      ((validate_ok_iff_inRange _).mpr ⟨hs, .inr ha, ⟨h1, h16⟩, nofun⟩) hframe

end Sys2Proof.Machine
end

section
/-! PROOFS. The extended-long family (O15, O16). -/

namespace Sys2Proof.Machine

open Sys2Proof

/-- F-LW as the statements group it, whatever `CFG` holds: it is never padded (30_encoding.md R72). -/
theorem frameLW_eq_validFrame (a : RegisterAccess) (c : Cfg) :
    Spec.frameLong false a.sa a.regAddr a.payload.length ++ Spec.bytes a.payload = validFrame .extLongWrite a c := by
  rw [frameLong_eq, bytes_eq_dataFrame, validFrame]

/-- Settles O15: the operands pass the validator, and the frame is F-LW. -/
theorem extLongWriteHandsOverItsFrame : Obligations.ExtLongWriteHandsOverItsFrame := by
  intro s a hp hs ha h1 h8
  exact exec_eq_acceptedWrite (i := .extLongWrite a) rfl hp
    ((validate_ok_iff_inRange _).mpr ⟨hs, .inr ha, ⟨h1, h8⟩, nofun⟩) (frameLW_eq_validFrame a s.cfg)

/-- Settles O16: the two reads pass the same checks and have the same frame F-LR. -/
theorem extLongReadsHandOverTheirFrame : Obligations.ExtLongReadsHandOverTheirFrame := by
  intro s a hp hs ha h1 h8
  have hframe := frameLong_eq true a.sa a.regAddr a.byteCount
  constructor
  · exact exec_eq_acceptedRead (i := .extLongRead a) rfl hp
      ((validate_ok_iff_inRange _).mpr ⟨hs, .inr ha, ⟨h1, h8⟩, nofun⟩) hframe
  · exact exec_eq_acceptedRead (i := .extLongReadHighRate a) rfl hp
      ((validate_ok_iff_inRange _).mpr ⟨hs, .inr ha, ⟨h1, h8⟩, nofun⟩) hframe

end Sys2Proof.Machine
end

section
/-! PROOFS. The capture (O33) and a read from its acceptance to its capture (O35). -/

namespace Sys2Proof.Machine

open Sys2Proof

/-- The request record of a read instruction names its kind, so that its capture is decoded (44_capture.md R176). -/
theorem readKind_encodeRequest {i : Instr} (hr : Spec.writes i.kind = false) :
    readKind (encodeRequest i) = some i.kind := by
  simp [readKind, ← writes_eq_isWrite, hr]

/-- In `WAIT_CAP` `REQ` can be read, so a capture ends the read `REQ` names: with its first bytes if there are enough,
with a shortfall if not (44_capture.md R170, R172). -/
theorem takeAnswer_bytes_of_waitCap {s : State} {k : Kind} (c : List Byte) (hp : s.phase = .waitCap)
    (hk : readKind s.req = some k) :
    takeAnswer (.bytes c) s = .next
      (if c.length < s.req.access.byteCount then
        s.takeError s.req.kind (.captureShortfall s.req.access.byteCount c.length)
      else (s.deliver (c.take s.req.access.byteCount)).finishOk s.req.kind) := by
  simp only [takeAnswer, hp, endRead]
  rw [withReq_of_waiting (by simp [hp, Phase.waiting])]
  simp only [hk, byteCountOf_readKind hk, decodeCapture]
  by_cases hl : c.length < s.req.access.byteCount
  · simp only [if_pos hl]
  · simp only [if_neg hl]

/-- Settles O33: the capture at the head is taken, and its length decides between the two ends of the read. -/
theorem captureEndsTheRead : Obligations.CaptureEndsTheRead := by
  intro s i c rest hp hreq hr hi
  have hk : readKind s.req = some i.kind := hreq ▸ readKind_encodeRequest hr
  have hstep := (step_answer_of_waiting (by simp [hp, Phase.waiting]) hi).trans
    (takeAnswer_bytes_of_waitCap (s := { s with inputs := rest }) c hp hk)
  have hkind : s.req.kind = kindCode i.kind := congrArg Request.kind hreq
  have haccess : s.req.access = i.access := congrArg Request.access hreq
  simp only [hkind, haccess] at hstep
  refine ⟨fun hle => ?_, fun hlt => ?_⟩
  · rw [hstep, if_neg (Nat.not_lt.mpr hle)]; rfl
  · rw [hstep, if_pos hlt]; rfl

/-- Settles O35: acceptance latches the read in `REQ` and leaves the capture at the head, which then ends it. -/
theorem readRoundTrip : Obligations.ReadRoundTrip := by
  intro s t i c rest hr hx hp hle
  obtain ⟨hcfg, -, -, hinputs, -, hreq, -⟩ := instructionsLeaveTheRestUnchanged _ t i hx
  obtain ⟨hgood, -⟩ := captureEndsTheRead t i c rest hp hreq hr hinputs
  exact ⟨_, hgood hle, rfl, List.length_take_of_le hle, rfl, rfl, rfl, rfl, rfl, hcfg⟩

end Sys2Proof.Machine
end

section
/-! PROOFS. The moves of the batch sequencer: what each does at the head of the coming moves (O51, O52), the start of a
batch (O53) and the empty batch (O57). -/

namespace Sys2Proof.Machine

open Sys2Proof

/-! The position of a batch (45_batch.md R190, R191). -/

theorem BatchRun.current_of_write {b : BatchRun} {q : Request} (h : b.writes[b.i]? = some q) :
    b.current = some q := by
  obtain ⟨hlt, -⟩ := List.getElem?_eq_some_iff.mp h
  rw [BatchRun.current, if_pos hlt, h]

theorem BatchRun.current_of_writes_done {b : BatchRun} (h : b.writes.length ≤ b.i) : b.current = b.reads[b.j]? :=
  if_neg (Nat.not_lt.mpr h)

theorem BatchRun.advance_of_write {b : BatchRun} (h : b.i < b.writes.length) (rdata : List Byte) :
    b.advance rdata = { b with i := b.i + 1, performing := false } :=
  if_pos h

theorem BatchRun.advance_of_writes_done {b : BatchRun} (h : b.writes.length ≤ b.i) (rdata : List Byte) :
    b.advance rdata = { b with j := b.j + 1, results := b.results ++ [rdata], performing := false } :=
  if_neg (Nat.not_lt.mpr h)

/-! The sequencer's moves at the head of the coming moves. -/

/-- In `IDLE` the sequencer presents the request at its position. -/
theorem step_batchMove_of_current {s : State} {b : BatchRun} {q : Request} {rest : List Event} (hp : s.phase = .idle)
    (hb : s.batch = .running b) (hn : b.performing = false) (hq : b.current = some q)
    (hi : s.inputs = .batchMove :: rest) :
    step s = presentRequest q { s with inputs := rest, batch := .running { b with performing := true } } := by
  have henabled : enabled s .batchMove = true := by simp [enabled, batchReady, hb, hn, hp]
  rw [step_head hi henabled (.inl (not_defensive_of_phase (by simp [hp])))]
  simp [perform, batchMove, hb, hn, hq]

/-- With nothing left to perform the sequencer finishes, in whatever phase. -/
theorem step_batchMove_of_no_current {s : State} {b : BatchRun} {rest : List Event} (hd : defensive s = false)
    (hb : s.batch = .running b) (hn : b.performing = false) (hq : b.current = none)
    (hi : s.inputs = .batchMove :: rest) :
    step s = .next { s with inputs := rest, batch := .completed b.results } := by
  have henabled : enabled s .batchMove = true := by simp [enabled, batchReady, hb, hn, hq]
  rw [step_head hi henabled (.inl hd)]
  simp [perform, batchMove, hb, hn, hq]

/-- Once the performed request's transaction is over the sequencer looks at its outcome. -/
theorem step_batchMove_of_performing {s : State} {b : BatchRun} {rest : List Event} (hd : defensive s = false)
    (hw : s.phase.waiting = false) (hb : s.batch = .running b) (hn : b.performing = true)
    (hi : s.inputs = .batchMove :: rest) :
    step s = .next { s with
      inputs := rest
      batch := if s.status.code = .ok then .running (b.advance s.rdata) else .aborted s.status } := by
  have henabled : enabled s .batchMove = true := by simp [enabled, batchReady, hb, hn, hw]
  rw [step_head hi henabled (.inl hd)]
  simp [perform, batchMove, hb, hn, batchLook_eq]

/-- With no batch running the start of one at the head is taken, in whatever phase, if its lists are well formed. -/
theorem step_startBatch {s : State} {ws rs : List Request} {rest : List Event} (hd : defensive s = false)
    (hb : s.batch.isRunning = false) (hi : s.inputs = .startBatch ws rs :: rest) :
    step s = if batchOk ws rs then
        .next { s with
          inputs := rest
          batch := .running { writes := ws, reads := rs, i := 0, j := 0, results := [], performing := false } }
      else .refused .malformedBatch := by
  rw [step_head hi (by simp [enabled, hb]) (.inl hd)]
  rfl

/-- A batch is well formed when no request of a mapped kind stands in the list of the other direction (45_batch.md
R194). -/
theorem batchOk_iff (ws rs : List Request) :
    batchOk ws rs = true ↔
      (∀ r ∈ ws, ∀ i, decodeRequest r = .ok i → Spec.writes i.kind = true) ∧
      (∀ r ∈ rs, ∀ i, decodeRequest r = .ok i → Spec.writes i.kind = false) := by
  simp only [batchOk, Bool.and_eq_true, List.all_eq_true, batchElementOk_iff, writes_eq_isWrite]

/-! The statements. -/

/-- Settles O51: the position decides between a write, a read and the end of the batch. -/
theorem batchPresentsWritesThenReads : Obligations.BatchPresentsWritesThenReads := by
  intro s b rest q hb hn hd hi
  refine ⟨fun hp hq => ?_, fun hp hdone hq => ?_, fun hdone hend => ?_⟩
  · exact step_batchMove_of_current hp hb hn (BatchRun.current_of_write hq) hi
  · exact step_batchMove_of_current hp hb hn ((BatchRun.current_of_writes_done hdone).trans hq) hi
  · refine step_batchMove_of_no_current hd hb hn ?_ hi
    rw [BatchRun.current_of_writes_done hdone, List.getElem?_eq_none hend]

/-- Settles O52: the outcome is looked at, and its code decides. -/
theorem batchStopsAtTheFirstError : Obligations.BatchStopsAtTheFirstError := by
  intro s b rest hb hn hphase hi
  have hover : defensive s = false ∧ s.phase.waiting = false := by
    rcases hphase with hp | ⟨hp, hc⟩
    · simp [hp, Phase.waiting]
    · simp [defensive, hp, hc, Phase.waiting]
  have hstep := step_batchMove_of_performing hover.1 hover.2 hb hn hi
  refine ⟨fun hc => ?_, fun hc hlt => ?_, fun hc hdone => ?_⟩
  · rw [hstep, if_neg hc]
  · rw [hstep, if_pos hc, BatchRun.advance_of_write hlt]
  · rw [hstep, if_pos hc, BatchRun.advance_of_writes_done hdone]

/-- Settles O53: a request of the wrong direction in either list is what makes the lists ill formed. -/
theorem malformedBatchIsRefused : Obligations.MalformedBatchIsRefused := by
  intro s ws rs rest hd hb hi
  rw [step_startBatch hd hb hi]
  refine ⟨fun hwrong => if_neg ?_, fun hws hrs => if_pos ((batchOk_iff ws rs).mpr ⟨hws, hrs⟩)⟩
  rw [batchOk_iff]
  rintro ⟨hws, hrs⟩
  rcases hwrong with ⟨r, hr, i, hdec, hread⟩ | ⟨r, hr, i, hdec, hwrite⟩
  · simp [hws r hr i hdec] at hread
  · simp [hrs r hr i hdec] at hwrite

/-! Runs of the machine. -/

theorem run_one {s t : State} (h : step s = .next t) : Host.Core.run Sys2Proof.core 1 s = .next t := by
  have hstep : Sys2Proof.core.step s = .next t := h
  simp [Host.Core.run, hstep]

/-- Runs compose. -/
theorem run_add {m n : Nat} {s t u : State} (hm : Host.Core.run Sys2Proof.core m s = .next t)
    (hn : Host.Core.run Sys2Proof.core n t = .next u) : Host.Core.run Sys2Proof.core (m + n) s = .next u := by
  induction m generalizing s with
  | zero => cases hm; rwa [Nat.zero_add]
  | succ m ih =>
    rw [Nat.succ_add]
    simp only [Host.Core.run] at hm ⊢
    cases hstep : Sys2Proof.core.step s with
    | next s' => rw [hstep] at hm; exact ih hm
    | fault r => rw [hstep] at hm; cases hm
    | refused r => rw [hstep] at hm; cases hm

/-- Settles O57: the batch is started, and its first position is past the end of both lists. -/
theorem emptyBatchCompletesInEveryPhase : Obligations.EmptyBatchCompletesInEveryPhase := by
  intro s rest hd hb hi
  have hstart := (step_startBatch hd hb hi).trans (if_pos rfl)
  exact run_add (run_one hstart) (run_one (step_batchMove_of_no_current hd rfl rfl rfl rfl))

end Sys2Proof.Machine
end

section
/-! PROOFS. A whole batch (O54): one transaction of a batch is three moves, the transactions of a list compose, and a
batch is its start, its writes, its reads and its end. -/

namespace Sys2Proof.Machine

open Sys2Proof

/-! One transaction. -/

/-- The answers that end a transaction of the instruction `i` without error, with what `RDATA` then holds if it held
`old` before (40_transaction.md R101, 44_capture.md R170). -/
inductive GoodAnswer (i : Instr) (old : List Byte) : Answer → List Byte → Prop where
  | done (hw : Spec.writes i.kind = true) : GoodAnswer i old .done old
  | captured (c : List Byte) (hr : Spec.writes i.kind = false) (hc : i.access.byteCount ≤ c.length) :
      GoodAnswer i old (.bytes c) (c.take i.access.byteCount)

/-- A good answer to the outstanding call of `i`, at the head, ends its transaction with `OK`. -/
theorem step_of_goodAnswer {i : Instr} {s : State} {a : Answer} {data : List Byte} {rest : List Event}
    (ha : GoodAnswer i s.rdata a data) (hp : s.phase = if (desc i.kind).isWrite then .waitTx else .waitCap)
    (hreq : s.req = encodeRequest i) (hi : s.inputs = .answer a :: rest) :
    step s = .next (({ s with inputs := rest }.deliver data).finishOk (kindCode i.kind)) := by
  have hkind : s.req.kind = kindCode i.kind := congrArg Request.kind hreq
  rw [step_answer_of_waiting (hp ▸ waiting_of_direction _) hi]
  rw [← writes_eq_isWrite] at hp
  cases ha with
  | done hw =>
    rw [hw, if_pos rfl] at hp
    rw [takeAnswer_done_of_waitTx (s := { s with inputs := rest }) hp]
    simp only [hkind]
    rfl
  | captured c hr hc =>
    rw [hr, if_neg Bool.false_ne_true] at hp
    have haccess : s.req.access = i.access := congrArg Request.access hreq
    rw [takeAnswer_bytes_of_waitCap (s := { s with inputs := rest }) c hp (hreq ▸ readKind_encodeRequest hr)]
    simp only [hkind, haccess, if_neg (Nat.not_lt.mpr hc)]

/-- From `s` the machine performs the instructions `is` one after another and gets to `t`: three moves for each, its
frame handed over in its turn, and `IDLE` at the end. -/
structure Performs (is : List Instr) (s t : State) : Prop where
  run_eq : Host.Core.run Sys2Proof.core (3 * is.length) s = .next t
  idle : t.phase = .idle
  cfg_eq : t.cfg = s.cfg
  calls_eq : ∃ frames, List.Forall₂ (fun i f => buildFrame i.kind i.access s.cfg = .ok f) is frames ∧
    t.calls = s.calls ++ List.zipWith Spec.call is frames

theorem Performs.nil {s : State} (hp : s.phase = .idle) : Performs [] s s :=
  ⟨rfl, hp, rfl, [], .nil, by simp⟩

theorem Performs.append {is js : List Instr} {s t u : State} (h : Performs is s t) (h' : Performs js t u) :
    Performs (is ++ js) s u := by
  obtain ⟨hrun, -, hcfg, fs, hfs, hcalls⟩ := h
  obtain ⟨hrun', hidle, hcfg', gs, hgs, hcalls'⟩ := h'
  refine ⟨?_, hidle, hcfg'.trans hcfg, fs ++ gs, List.rel_append hfs (hcfg ▸ hgs), ?_⟩
  · rw [List.length_append, Nat.mul_add]
    exact run_add hrun hrun'
  · rw [hcalls', hcalls, List.zipWith_append hfs.length_eq, List.append_assoc]

/-- The sequencer performs the request at its position: it presents it, the collaborator answers, and it goes on
(45_batch.md R190, R191). -/
theorem performs_current {s : State} {b : BatchRun} {i : Instr} {a : Answer} {data : List Byte} {rest : List Event}
    (hp : s.phase = .idle) (hb : s.batch = .running b) (hn : b.performing = false)
    (hq : b.current = some (encodeRequest i)) (hv : validate i.kind i.access = .ok ())
    (ha : GoodAnswer i s.rdata a data) (hi : s.inputs = .batchMove :: .answer a :: .batchMove :: rest) :
    ∃ t, Performs [i] s t ∧ t.inputs = rest ∧
      t.batch = .running (BatchRun.advance { b with performing := true } data) := by
  obtain ⟨f, hf⟩ := buildFrame_of_validate i.kind i.access s.cfg hv
  have hpresent := (step_batchMove_of_current hp hb hn hq hi).trans
    ((presentRequest_of_decode (decodeRequest_encodeRequest i) _).trans (exec_accepted i _ f hp hv hf))
  have hrun := run_add (run_one hpresent) (run_add (run_one (step_of_goodAnswer (i := i) ha rfl rfl rfl))
    (run_one (step_batchMove_of_performing (not_defensive_of_phase nofun) rfl rfl rfl rfl)))
  exact ⟨_, ⟨hrun, rfl, rfl, [f], .cons hf .nil, by simp [call_eq_callFor]⟩, rfl, rfl⟩

/-! The lists of a batch. -/

/-- A batch between two of its requests, at a position. -/
def Batch.between (writes reads : List Request) (i j : Nat) (results : List (List Byte)) : Batch :=
  .running { writes := writes, reads := reads, i := i, j := j, results := results, performing := false }

/-- The requests left of a list are the one at the position and those left after it. -/
theorem next_of_drop_eq_cons {l qs : List Request} {q : Request} {n : Nat} (h : l.drop n = q :: qs) :
    l[n]? = some q ∧ l.drop (n + 1) = qs :=
  ⟨by rw [← List.head?_drop, h, List.head?_cons], by rw [← List.tail_drop, h, List.tail_cons]⟩

/-- The writes left of a batch are performed in order (45_batch.md R190, R191). -/
theorem performs_writes {ws rs : List Request} {j : Nat} {results : List (List Byte)} {rest : List Event}
    (is : List Instr) {s : State} {n : Nat} (hp : s.phase = .idle) (hb : s.batch = .between ws rs n j results)
    (hleft : ws.drop n = is.map encodeRequest)
    (his : ∀ i ∈ is, Spec.writes i.kind = true ∧ validate i.kind i.access = .ok ())
    (hi : s.inputs = Spec.writeMoves is.length ++ rest) :
    ∃ t, Performs is s t ∧ t.inputs = rest ∧ t.batch = .between ws rs (n + is.length) j results := by
  induction is generalizing s n with
  | nil => exact ⟨s, .nil hp, hi, hb⟩
  | cons i is ih =>
    obtain ⟨⟨hw, hv⟩, his⟩ := List.forall_mem_cons.mp his
    obtain ⟨hq, hleft'⟩ := next_of_drop_eq_cons hleft
    obtain ⟨hlt, -⟩ := List.getElem?_eq_some_iff.mp hq
    obtain ⟨t, hst, htin, htb⟩ := performs_current hp hb rfl (BatchRun.current_of_write hq) hv (.done hw) hi
    rw [BatchRun.advance_of_write hlt] at htb
    obtain ⟨u, htu, huin, hub⟩ := ih hst.idle htb hleft' his htin
    exact ⟨u, hst.append htu, huin, by rw [hub, List.length_cons, Nat.add_right_comm, Nat.add_assoc]⟩

/-- The reads left of a batch whose writes are done are performed in order, each giving its result (45_batch.md R190,
R191, R193). -/
theorem performs_reads {ws rs : List Request} {m : Nat} {rest : List Event} {is : List Instr}
    {caps : List (List Byte)} (hcaps : List.Forall₂ (fun i c => i.access.byteCount ≤ c.length) is caps) {s : State}
    {n : Nat} {results : List (List Byte)} (hm : ws.length ≤ m) (hp : s.phase = .idle)
    (hb : s.batch = .between ws rs m n results) (hleft : rs.drop n = is.map encodeRequest)
    (his : ∀ i ∈ is, Spec.writes i.kind = false ∧ validate i.kind i.access = .ok ())
    (hi : s.inputs = Spec.readMoves caps ++ rest) :
    ∃ t, Performs is s t ∧ t.inputs = rest ∧
      t.batch = .between ws rs m (n + is.length)
        (results ++ List.zipWith (fun i c => c.take i.access.byteCount) is caps) := by
  induction hcaps generalizing s n results with
  | nil => exact ⟨s, .nil hp, hi, by simpa using hb⟩
  | @cons i c is caps hc _ ih =>
    obtain ⟨⟨hr, hv⟩, his⟩ := List.forall_mem_cons.mp his
    obtain ⟨hq, hleft'⟩ := next_of_drop_eq_cons hleft
    obtain ⟨t, hst, htin, htb⟩ := performs_current hp hb rfl ((BatchRun.current_of_writes_done hm).trans hq) hv
      (.captured c hr hc) hi
    rw [BatchRun.advance_of_writes_done hm] at htb
    obtain ⟨u, htu, huin, hub⟩ := ih hst.idle htb hleft' his htin
    refine ⟨u, hst.append htu, huin, ?_⟩
    rw [hub, List.length_cons, Nat.add_right_comm, Nat.add_assoc, List.append_assoc]
    rfl

/-- A batch just started performs its writes, then its reads, and comes to the end of both lists. -/
theorem performs_batch {ws rs : List Instr} {caps : List (List Byte)} {rest : List Event} {s : State}
    (hp : s.phase = .idle) (hb : s.batch = .between (ws.map encodeRequest) (rs.map encodeRequest) 0 0 [])
    (hws : ∀ i ∈ ws, Spec.writes i.kind = true ∧ validate i.kind i.access = .ok ())
    (hrs : ∀ i ∈ rs, Spec.writes i.kind = false ∧ validate i.kind i.access = .ok ())
    (hcaps : List.Forall₂ (fun i c => i.access.byteCount ≤ c.length) rs caps)
    (hi : s.inputs = Spec.writeMoves ws.length ++ Spec.readMoves caps ++ rest) :
    ∃ t, Performs (ws ++ rs) s t ∧ t.inputs = rest ∧
      t.batch = .between (ws.map encodeRequest) (rs.map encodeRequest) ws.length rs.length
        (List.zipWith (fun i c => c.take i.access.byteCount) rs caps) := by
  rw [List.append_assoc] at hi
  obtain ⟨t, hst, htin, htb⟩ := performs_writes ws hp hb rfl hws hi
  rw [Nat.zero_add] at htb
  obtain ⟨u, htu, huin, hub⟩ := performs_reads hcaps (by simp) hst.idle htb rfl hrs htin
  rw [Nat.zero_add, List.nil_append] at hub
  exact ⟨u, hst.append htu, huin, hub⟩

/-- Settles O54: the batch is started, performs its lists in order, and then finds nothing left to perform. -/
theorem batchRunsInOrderToCompletion : Obligations.BatchRunsInOrderToCompletion := by
  intro s ws rs caps hp hb _ hws hrs hcaps hi
  have hok : batchOk (ws.map encodeRequest) (rs.map encodeRequest) = true := by
    simpa [batchOk_iff] using ⟨fun i h => (hws i h).1, fun i h => (hrs i h).1⟩
  have hstart := (step_startBatch (not_defensive_of_phase (by simp [hp])) hb hi).trans (if_pos hok)
  obtain ⟨t, ⟨hrun, hidle, hcfg, frames, hframes, hcalls⟩, hin, htb⟩ :=
    performs_batch (s := { s with
      inputs := Spec.writeMoves ws.length ++ Spec.readMoves caps ++ [.batchMove]
      batch := .between (ws.map encodeRequest) (rs.map encodeRequest) 0 0 [] }) hp rfl hws hrs hcaps rfl
  have hnone : (rs.map encodeRequest)[rs.length]? = none := by simp
  have hend := step_batchMove_of_no_current (not_defensive_of_phase (by simp [hidle])) htb rfl
    ((BatchRun.current_of_writes_done (by simp)).trans hnone) hin
  have hall := run_add (run_one hstart) (run_add hrun (run_one hend))
  have hmoves : 1 + (3 * (ws ++ rs).length + 1) = 3 * ws.length + 3 * rs.length + 2 := by
    rw [List.length_append]
    omega
  rw [hmoves] at hall
  exact ⟨_, frames, hall, rfl, hframes, hcalls, hidle, hcfg, rfl⟩

end Sys2Proof.Machine
end

section
/-! PROOFS. Exceptions: where an instruction has a step (O24), FAIL (O34), `FAULTED` (O42) and the defensive errors
(O43). -/

namespace Sys2Proof.Machine

open Sys2Proof

/-- An instruction's next state is a rejection, in `IDLE`, or an acceptance, in a waiting phase. -/
theorem exec_phase_ne_faulted {i : Instr} {s t : State} (h : exec i s = .next t) : t.phase ≠ .faulted := by
  obtain ⟨-, ⟨e, hv, rfl⟩ | ⟨f, -, -, rfl⟩⟩ := exec_cases h
  · rw [State.takeError_phase, errorPhase_of_validate_error hv]
    nofun
  · rw [State.callOut_phase]
    cases (desc i.kind).isWrite <;> nofun

/-- Settles O24: in `IDLE` an instruction is accepted or rejected, and neither leads to `FAULTED`. -/
theorem everyInstructionRunsInIdleOnly : Obligations.EveryInstructionRunsInIdleOnly := by
  refine fun s i => ⟨fun hp => ?_, exec_not_idle i s⟩
  obtain ⟨t, ht⟩ := exec_next_of_idle i hp
  exact ⟨t, ht, exec_phase_ne_faulted ht⟩

/-- In either waiting phase `REQ` can be read, so `FAIL` ends the transaction (60_exceptions.md R216). -/
theorem takeAnswer_fail_of_waiting {s : State} (hw : s.phase.waiting = true) :
    takeAnswer .fail s = .next (s.takeError s.req.kind .collaborator) := by
  have hend : endFailed s = .next (s.takeError s.req.kind .collaborator) := withReq_of_waiting hw _
  rcases (Phase.waiting_iff s.phase).mp hw with hp | hp <;> simp only [takeAnswer, hp, hend]

/-- Settles O34: the answer at the head is taken, and ends the transaction. -/
theorem failureEndsTheTransaction : Obligations.FailureEndsTheTransaction := by
  intro s rest hw hi
  exact (step_answer_of_waiting hw hi).trans (takeAnswer_fail_of_waiting (s := { s with inputs := rest }) hw)

/-- The rows of R23's table for an answer are of the waiting phases. -/
theorem waiting_of_endedByStep {s t : State} (h : Spec.endedByStep s t) : s.phase.waiting = true := by
  rw [Phase.waiting_iff]
  rcases h with ⟨hp, -⟩ | ⟨hp, -⟩ | ⟨hp, -⟩
  · exact .inl hp
  · exact hp
  · exact .inr hp

/-- Outside `IDLE` a step that keeps the phase is one of the batch sequencer's, or its start. -/
theorem eq_of_keptByStep_of_not_idle {s t : State} (hp : s.phase ≠ .idle) (h : Spec.keptByStep s t) :
    t = { s with batch := t.batch, inputs := t.inputs } := by
  rcases h with ⟨hi, -⟩ | ⟨hi, -⟩ | ⟨hi, -⟩ | ⟨hi, -⟩ | ⟨-, ht⟩
  · exact absurd hi hp
  · exact absurd hi hp
  · exact absurd hi hp
  · exact absurd hi hp
  · exact ht

/-- Settles O42: of the listed steps, only those of the batch sequencer and a reset are from `FAULTED`. -/
theorem faultedIsLeftOnlyByReset : Obligations.FaultedIsLeftOnlyByReset := by
  intro s t hp h
  have hidle : s.phase ≠ .idle := by simp [hp]
  rcases (stepTo_of_step h).listed with ⟨-, hr | hr | hr⟩ | ⟨hphase, hk⟩ | hr
  · exact absurd hr.1 hidle
  · exact absurd hr.1 hidle
  · exact absurd (waiting_of_endedByStep hr) (by simp [hp, Phase.waiting])
  · exact .inl ⟨hphase.trans hp, eq_of_keptByStep_of_not_idle hidle hk⟩
  · exact .inr (wasReset_of_resetByStep hr)

/-! The code of the `STATUS` that a listed step writes. -/

theorem status_of_acceptedByStep {s t : State} (h : Spec.acceptedByStep s t) : t.status = s.status := by
  obtain ⟨-, i, -, -, -, -, -, -, ht⟩ := h
  rw [ht]

theorem status_code_of_faultedByStep {s t : State} (h : Spec.faultedByStep s t) :
    t.status.code = .unsupportedCommand := by
  obtain ⟨-, r, -, -, ht⟩ := h
  rw [ht]

theorem status_code_of_endedByStep {s t : State} (h : Spec.endedByStep s t) :
    t.status.code = .ok ∨ t.status.code = .collaborator ∨ t.status.code = .captureShortfall := by
  rcases h with ⟨-, -, ht⟩ | ⟨-, -, ht⟩ | ⟨-, c, -, ⟨-, ht⟩ | ⟨-, ht⟩⟩
  · rw [ht]; exact .inl rfl
  · rw [ht]; exact .inr (.inl rfl)
  · rw [ht]; exact .inl rfl
  · rw [ht]; exact .inr (.inr rfl)

theorem status_of_keptByStep {s t : State} (h : Spec.keptByStep s t) :
    t.status = s.status ∨ t.status.code = .validation := by
  rcases h with ⟨-, i, -, hcode, -⟩ | ⟨-, v, -, ht⟩ | ⟨-, v, -, ht⟩ | ⟨-, -, -, ht⟩ | ⟨-, ht⟩
  · exact .inr hcode
  · rw [ht]; exact .inl rfl
  · rw [ht]; exact .inl rfl
  · rw [ht]; exact .inl rfl
  · rw [ht]; exact .inl rfl

theorem status_of_resetByStep {s t : State} (h : Spec.resetByStep s t) : t.status = Status.reset := by
  rw [h.2]; rfl

/-- A step leaves `STATUS` alone or writes one that is no defensive error's. -/
theorem Listed.status {s t : State} (h : Listed s t) :
    t.status = s.status ∨ ¬ (t.status.code = .range ∨ t.status.code = .buildMisuse) := by
  rcases h with ⟨-, hr | hr | hr⟩ | ⟨-, hk⟩ | hr
  · exact .inl (status_of_acceptedByStep hr)
  · exact .inr (by simp [status_code_of_faultedByStep hr])
  · right
    rcases status_code_of_endedByStep hr with hc | hc | hc <;> simp [hc]
  · exact (status_of_keptByStep hk).imp_right fun hc => by simp [hc]
  · exact .inr (by simp [status_of_resetByStep hr, Status.reset])

/-- Settles O43: what a listed step writes to `STATUS` is no defensive error's. -/
theorem defensiveErrorsAreUnreachable : Obligations.DefensiveErrorsAreUnreachable :=
  fun _ _ h hcode => (stepTo_of_step h).listed.status.resolve_right (not_not.mpr hcode)

end Sys2Proof.Machine
end

section
/-! PROOFS. A move of the host that waits behind a transaction (O7), a reset in every phase (O45) and the late answer to
a call that a reset abandoned (O46). -/

namespace Sys2Proof.Machine

open Sys2Proof

/-! The move picked from behind a host that waits (20_memory.md R53). -/

/-- While a move of the host waits, those behind it are passed over up to the first move of another party that has a
step. -/
theorem pickFrom_held_append {s : State} {m : Event} (hm : enabled s m = true) (hn : m.inHostOrder = false)
    {held : List Event} (hh : ∀ x ∈ held, x.inHostOrder = true) (rest : List Event) :
    pickFrom s true (held ++ m :: rest) = some (m, held ++ rest) := by
  induction held with
  | nil => simp [pickFrom, hm, hn]
  | cons x held ih =>
    obtain ⟨hx, hh⟩ := List.forall_mem_cons.mp hh
    simp [pickFrom, hx, ih hh]

/-- A move of the host that has no step holds those of the host behind it, but no move of another party. -/
theorem pick_behind_waiting_host {s : State} {e m : Event} (he : enabled s e = false) (ho : e.inHostOrder = true)
    (hm : enabled s m = true) (hn : m.inHostOrder = false) {held : List Event}
    (hh : ∀ x ∈ held, x.inHostOrder = true) (rest : List Event) :
    pick s (e :: (held ++ m :: rest)) = some (m, e :: (held ++ rest)) := by
  simp [pick, pickFrom, he, ho, pickFrom_held_append hm hn hh]

/-! The collaborator's answer meanwhile. -/

theorem Phase.ne_idle_of_waiting {p : Phase} (h : p.waiting = true) : p ≠ .idle := by
  rintro rfl; cases h

theorem not_defensive_of_waiting {s : State} (h : s.phase.waiting = true) : defensive s = false :=
  not_defensive_of_phase (by rintro hp; rw [hp] at h; cases h)

/-- What an answer does neither depends on the moves to come nor changes them. -/
theorem takeAnswer_withInputs {a : Answer} {s t : State} (es : List Event) (h : takeAnswer a s = .next t) :
    takeAnswer a { s with inputs := es } = .next { t with inputs := es } := by
  rcases takeAnswer_cases h with ⟨hp, rfl, rfl⟩ | ⟨hw, rfl, rfl⟩ | ⟨hp, c, rfl, hx⟩ | ⟨hp, ha, rfl⟩
  · exact takeAnswer_done_of_waitTx (s := { s with inputs := es }) hp
  · exact takeAnswer_fail_of_waiting (s := { s with inputs := es }) hw
  · obtain ⟨k, hk, hc⟩ := endRead_cases hx
    rw [byteCountOf_readKind hk] at hc
    rw [takeAnswer_bytes_of_waitCap (s := { s with inputs := es }) c hp hk]
    rcases hc with ⟨hle, rfl⟩ | ⟨hlt, rfl⟩
    · rw [if_neg (Nat.not_lt.mpr hle)]; rfl
    · rw [if_pos hlt]; rfl
  · simp [takeAnswer, hp, ha]

/-- While a call is outstanding and the host waits, the collaborator's answer behind the host's moves is taken, and
those moves stay in their order (60_exceptions.md R233, 70_reset_and_hazards.md R244). -/
theorem step_answer_behind_waiting_host {s u : State} {e : Event} {a : Answer} {held rest : List Event}
    (hw : s.phase.waiting = true) (he : enabled s e = false) (ho : e.inHostOrder = true)
    (hh : ∀ x ∈ held, x.inHostOrder = true) (hu : takeAnswer a { s with inputs := rest } = .next u)
    (hi : s.inputs = e :: (held ++ .answer a :: rest)) :
    step s = .next { u with inputs := e :: (held ++ rest) } := by
  have hpick : pick s s.inputs = some (.answer a, e :: (held ++ rest)) :=
    hi ▸ pick_behind_waiting_host he ho (by simp [enabled, hw]) rfl hh rest
  have hd : defensive { s with inputs := e :: (held ++ rest) } = false := not_defensive_of_waiting hw
  simp only [step, hpick]
  rw [performGuarded_of_not_defensive _ hd]
  exact takeAnswer_withInputs (s := { s with inputs := rest }) _ hu

/-- The moves that ask for `IDLE` are of the host's order and have no step while a call is outstanding. -/
theorem waits_of_waiting {s : State} {e : Event} (hw : s.phase.waiting = true)
    (h : (∃ r, e = .present r) ∨ (∃ v, e = .writePad v) ∨ (∃ v, e = .writeOpc v)) :
    enabled s e = false ∧ e.inHostOrder = true := by
  have hp := Phase.ne_idle_of_waiting hw
  rcases h with ⟨r, rfl⟩ | ⟨v, rfl⟩ | ⟨v, rfl⟩
  · exact ⟨by simp [enabled, hp], rfl⟩
  · exact ⟨by simp [enabled, hp], rfl⟩
  · exact ⟨by simp [enabled, hp], rfl⟩

/-- Settles O7: the host's move has no step outside `IDLE`, so the answer is picked from behind it, and from behind the
start of a batch that it holds. -/
theorem presentedRequestWaitsForIdle : Obligations.PresentedRequestWaitsForIdle := by
  intro s u e a rest hw hhost hstep
  obtain ⟨he, ho⟩ := waits_of_waiting hw hhost
  have hu : takeAnswer a { s with inputs := rest } = .next u :=
    (step_answer_of_waiting (s := { s with inputs := .answer a :: rest }) hw rfl).symm.trans hstep
  refine ⟨takeAnswer_inputs hu, fun hi => ?_, fun ws rs hi => ?_⟩
  · exact step_answer_behind_waiting_host (held := []) hw he ho (by simp) hu hi
  · exact step_answer_behind_waiting_host (held := [.startBatch ws rs]) hw he ho (by simp [Event.inHostOrder]) hu hi

/-! Resets and late answers (70_reset_and_hazards.md R240). -/

/-- A reset at the head is taken in every phase, after a defensive error too. -/
theorem step_reset {s : State} {rest : List Event} (hi : s.inputs = .reset :: rest) :
    step s = .next { s with inputs := rest }.hardReset := step_head hi rfl (.inr rfl)

/-- Settles O45: the reset at the head is taken, and counts a call as abandoned if one is outstanding. -/
theorem resetWorksInEveryPhase : Obligations.ResetWorksInEveryPhase := by
  intro s rest hi
  refine ⟨_, step_reset hi, rfl, rfl, rfl, rfl, rfl, rfl, rfl, rfl, rfl, fun hw => ?_, fun hw => ?_⟩
  · rw [State.hardReset_abandoned]; exact if_pos hw
  · rw [State.hardReset_abandoned]; exact if_neg (Bool.eq_false_iff.mp hw)

/-- Settles O46: in `IDLE` an answer at the head is taken when a call is still owed one, and counts that call off. -/
theorem lateAnswerIsDiscarded : Obligations.LateAnswerIsDiscarded := by
  intro s a rest hp ha hi
  rw [step_head hi (by simp [enabled, hp, ha]) (.inl (not_defensive_of_phase (by simp [hp])))]
  simp [perform, takeAnswer, hp, ha]

end Sys2Proof.Machine
end
